-- ==== Sys2Proof/Word.lean ====
section
/-! DEFINITION. The plain word types of the block: R10 (device address 7 bits, data and register-address bytes 8 bits)
and R61 (the command word, 32 bits). All values are unsigned (R11). -/

namespace Sys2Proof

/-- A data byte or a register address (R10, R11). -/
abbrev Byte := BitVec 8

/-- A 7-bit device address, 0x00..0x7F; no value is special or validated (R10, R18, R40). -/
abbrev Addr7 := BitVec 7

/-- A command word (R61). -/
abbrev Word32 := BitVec 32

end Sys2Proof
end

