-- ==== Sys2Proof/Syntax.lean ====
section
/-! DEFINITION. The thirteen operations of spec/opcode_table.json (R63), the direction of an addressing phase (R73), and
the assembly line of R69. A buffer or a callback is passed beside the word (R61, R63), so it is no field of `Instr`:
the operation finds it in `State.buf` and `State.cb`. -/

namespace Sys2Proof

/-- The direction of an addressing phase: `Write = 0`, `Read = 1` (R10, R65). -/
inductive Dir where
  | W
  | R
deriving DecidableEq, Repr

/-- One constructor per row of spec/opcode_table.json. Operand fields have the widths of R61; a byte count is a natural
number, and `Instr.wellFormed` bounds it by what field `B` can hold (R62, D14). -/
inductive Instr where
  /-- `start d, W|R` (R77). -/
  | start (d : Addr7) (dir : Dir)
  /-- `repeatStart d, W|R` (R78). -/
  | repeatStart (d : Addr7) (dir : Dir)
  /-- `stop` (R79). -/
  | stop
  /-- `writeDevice b` (R80). -/
  | writeDevice (b : Byte)
  /-- `readDeviceWithAck` (R81). -/
  | readDeviceWithAck
  /-- `readDeviceWithNak` (R82). -/
  | readDeviceWithNak
  /-- `writeBytes d, buf, count, sendStop` (R87). -/
  | writeBytes (d : Addr7) (n : Nat) (ss : Bool)
  /-- `readBytes d, buf, count, sendStop` (R88). -/
  | readBytes (d : Addr7) (n : Nat) (ss : Bool)
  /-- `writeRegister d, r, v` (R89). -/
  | writeRegister (d : Addr7) (r v : Byte)
  /-- `writeRegisterMulti d, r, buf, count` (R90). -/
  | writeRegisterMulti (d : Addr7) (r : Byte) (n : Nat)
  /-- `readRegister d, r` (R91). -/
  | readRegister (d : Addr7) (r : Byte)
  /-- `readRegisterMulti d, r, buf, count` (R92). -/
  | readRegisterMulti (d : Addr7) (r : Byte) (n : Nat)
  /-- `scanBus cb` (R93). -/
  | scanBus
deriving DecidableEq, Repr

/-- One line of assembly (R69), its numbers as written and so not yet known to fit a field. `sendStop` may be left out
(R70). The names `buf` and `cb` carry no value: the buffer and the callback are handed over beside the word. -/
inductive AsmLine where
  | start (d : Nat) (dir : Dir)
  | repeatStart (d : Nat) (dir : Dir)
  | stop
  | writeDevice (b : Nat)
  | readDeviceWithAck
  | readDeviceWithNak
  | writeBytes (d count : Nat) (sendStop : Option Nat)
  | readBytes (d count : Nat) (sendStop : Option Nat)
  | writeRegister (d r v : Nat)
  | writeRegisterMulti (d r count : Nat)
  | readRegister (d r : Nat)
  | readRegisterMulti (d r count : Nat)
  | scanBus
deriving DecidableEq, Repr

end Sys2Proof
end

