-- ==== Sys2Proof/WellFormed.lean ====
section
/-! DEFINITION. Which operations and assembly lines have an encoding: R62 ("counts above 255 cannot be encoded") and the
operand ranges of R69 ("An operand out of its range is an assembly error (it has no encoding)"). Every other field of
`Instr` has its range in its type. A count of 0 on a read is well formed: it decodes, and the operation refuses it when
it runs (R66, `ZeroCount`). -/

namespace Sys2Proof

/-- A byte count fits field `B` (R62, D14). -/
def countFits (n : Nat) : Bool := decide (n < 256)

/-- The operation has a command word (R62). -/
def Instr.wellFormed : Instr → Bool
  | .start _ _ => true
  | .repeatStart _ _ => true
  | .stop => true
  | .writeDevice _ => true
  | .readDeviceWithAck => true
  | .readDeviceWithNak => true
  | .writeBytes _ n _ => countFits n
  | .readBytes _ n _ => countFits n
  | .writeRegister _ _ _ => true
  | .writeRegisterMulti _ _ n => countFits n
  | .readRegister _ _ => true
  | .readRegisterMulti _ _ n => countFits n
  | .scanBus => true

/-- A device address operand is 0..0x7F (R69). -/
def deviceFits (d : Nat) : Bool := decide (d < 128)

/-- A byte operand is 0..0xFF (R69). -/
def byteFits (b : Nat) : Bool := decide (b < 256)

/-- `sendStop` is 0 or 1, or left out (R69, R70). -/
def sendStopFits : Option Nat → Bool
  | none => true
  | some k => decide (k < 2)

/-- Every operand of the line is in its range (R69). -/
def AsmLine.wellFormed : AsmLine → Bool
  | .start d _ => deviceFits d
  | .repeatStart d _ => deviceFits d
  | .stop => true
  | .writeDevice b => byteFits b
  | .readDeviceWithAck => true
  | .readDeviceWithNak => true
  | .writeBytes d n ss => deviceFits d && countFits n && sendStopFits ss
  | .readBytes d n ss => deviceFits d && countFits n && sendStopFits ss
  | .writeRegister d r v => deviceFits d && byteFits r && byteFits v
  | .writeRegisterMulti d r n => deviceFits d && byteFits r && countFits n
  | .readRegister d r => deviceFits d && byteFits r
  | .readRegisterMulti d r n => deviceFits d && byteFits r && countFits n
  | .scanBus => true

end Sys2Proof
end

