-- ==== Sys2Proof/Decode.lean ====
section
/-! DEFINITION. The command word (R61..R64, R66..R68), its decoder and encoder, and the address byte (R65). The decoder is
total on every 32-bit word: one of the thirteen operations, or the verdict `illegalEncoding` (R67). -/

namespace Sys2Proof

/-- The decoder's one verdict on a word that names no operation (R66, R67). -/
inductive DecodeError where
  /-- A reserved `OP`, or a must-be-zero field that is not zero. -/
  | illegalEncoding
deriving DecidableEq, Repr

/-- What the decoder answers. -/
abbrev Decoded := Except DecodeError Instr

/-! ## Fields (R61, R62) -/

/-- `OP`, bits 31:28. -/
def opField (w : Word32) : BitVec 4 := w.extractLsb' 28 4

/-- `SS`, bit 27. -/
def ssField (w : Word32) : Bool := w.getLsbD 27

/-- `RSV`, bits 26:24. -/
def rsvField (w : Word32) : BitVec 3 := w.extractLsb' 24 3

/-- `DEV`, bits 23:17. -/
def devField (w : Word32) : Addr7 := w.extractLsb' 17 7

/-- A direction bit read: 0 is `W`, 1 is `R` (R61). -/
def dirOfBit (x : Bool) : Dir := if x then .R else .W

/-- `DIR`, bit 16. -/
def dirField (w : Word32) : Dir := dirOfBit (w.getLsbD 16)

/-- `A`, bits 15:8. -/
def aField (w : Word32) : Byte := w.extractLsb' 8 8

/-- `B`, bits 7:0. -/
def bField (w : Word32) : Byte := w.extractLsb' 0 8

/-- `B` read as a byte count, 0..255 (R62). -/
def countField (w : Word32) : Nat := (bField w).toNat

/-! ## The match and mask of each operation (R64) -/

/-- A row of R64: a word selects the operation iff `word & mask = match`. -/
structure Row where
  matchBits : Word32
  mask : Word32
deriving DecidableEq, Repr

/-- `word & mask = match` (R64). -/
def Row.selects (r : Row) (w : Word32) : Bool := w &&& r.mask == r.matchBits

def rowStart : Row := ⟨0x10000000#32, 0xFF00FFFF#32⟩
def rowRepeatStart : Row := ⟨0x20000000#32, 0xFF00FFFF#32⟩
def rowStop : Row := ⟨0x30000000#32, 0xFFFFFFFF#32⟩
def rowWriteDevice : Row := ⟨0x40000000#32, 0xFFFFFF00#32⟩
def rowReadDeviceWithAck : Row := ⟨0x50000000#32, 0xFFFFFFFF#32⟩
def rowReadDeviceWithNak : Row := ⟨0x60000000#32, 0xFFFFFFFF#32⟩
def rowWriteBytes : Row := ⟨0x80000000#32, 0xF701FF00#32⟩
def rowReadBytes : Row := ⟨0x90000000#32, 0xF701FF00#32⟩
def rowWriteRegister : Row := ⟨0xA0000000#32, 0xFF010000#32⟩
def rowWriteRegisterMulti : Row := ⟨0xB0000000#32, 0xFF010000#32⟩
def rowReadRegister : Row := ⟨0xC0000000#32, 0xFF0100FF#32⟩
def rowReadRegisterMulti : Row := ⟨0xD0000000#32, 0xFF010000#32⟩
def rowScanBus : Row := ⟨0xE0000000#32, 0xFFFFFFFF#32⟩

/-- All rows of R64, in its order. -/
def opcodeRows : List Row :=
  [rowStart, rowRepeatStart, rowStop, rowWriteDevice, rowReadDeviceWithAck, rowReadDeviceWithNak, rowWriteBytes,
   rowReadBytes, rowWriteRegister, rowWriteRegisterMulti, rowReadRegister, rowReadRegisterMulti, rowScanBus]

/-- The row of an operation (R64). -/
def Instr.row : Instr → Row
  | .start _ _ => rowStart
  | .repeatStart _ _ => rowRepeatStart
  | .stop => rowStop
  | .writeDevice _ => rowWriteDevice
  | .readDeviceWithAck => rowReadDeviceWithAck
  | .readDeviceWithNak => rowReadDeviceWithNak
  | .writeBytes _ _ _ => rowWriteBytes
  | .readBytes _ _ _ => rowReadBytes
  | .writeRegister _ _ _ => rowWriteRegister
  | .writeRegisterMulti _ _ _ => rowWriteRegisterMulti
  | .readRegister _ _ => rowReadRegister
  | .readRegisterMulti _ _ _ => rowReadRegisterMulti
  | .scanBus => rowScanBus

/-! ## The decoder -/

/-- The operation a command word names (R63, R64), or `illegalEncoding` (R66). -/
def decode (w : Word32) : Decoded :=
  if rowStart.selects w then .ok (.start (devField w) (dirField w))
  else if rowRepeatStart.selects w then .ok (.repeatStart (devField w) (dirField w))
  else if rowStop.selects w then .ok .stop
  else if rowWriteDevice.selects w then .ok (.writeDevice (bField w))
  else if rowReadDeviceWithAck.selects w then .ok .readDeviceWithAck
  else if rowReadDeviceWithNak.selects w then .ok .readDeviceWithNak
  else if rowWriteBytes.selects w then .ok (.writeBytes (devField w) (countField w) (ssField w))
  else if rowReadBytes.selects w then .ok (.readBytes (devField w) (countField w) (ssField w))
  else if rowWriteRegister.selects w then .ok (.writeRegister (devField w) (aField w) (bField w))
  else if rowWriteRegisterMulti.selects w then .ok (.writeRegisterMulti (devField w) (aField w) (countField w))
  else if rowReadRegister.selects w then .ok (.readRegister (devField w) (aField w))
  else if rowReadRegisterMulti.selects w then .ok (.readRegisterMulti (devField w) (aField w) (countField w))
  else if rowScanBus.selects w then .ok .scanBus
  else .error .illegalEncoding

/-- The decoder read on an opcode-table word. A command word is one 32-bit value (R68), so a table row has all its bits;
a number that is no 32-bit value is no command word. -/
def decodeTableWord (nbits w : Nat) : Option Instr :=
  if nbits ≤ 32 ∧ w < 2 ^ 32 then
    match decode (BitVec.ofNat 32 w) with
    | .ok i => some i
    | .error _ => none
  else none

/-! ## The encoder (R71) -/

/-- The bit of a direction: `W` is 0, `R` is 1 (R65). -/
def dirBit : Dir → BitVec 1
  | .W => 0#1
  | .R => 1#1

/-- The seven fields of R61 put together, `RSV` zero. -/
def packWord (op : BitVec 4) (ss : Bool) (d : Addr7) (dir : BitVec 1) (a b : Byte) : Word32 :=
  op ++ BitVec.ofBool ss ++ 0#3 ++ d ++ dir ++ a ++ b

/-- A count as it stands in field `B` (R62). -/
def countByte (n : Nat) : Byte := BitVec.ofNat 8 n

/-- The command word of an operation (R71). -/
def encode : Instr → Word32
  | .start d dir => packWord 0x1#4 false d (dirBit dir) 0#8 0#8
  | .repeatStart d dir => packWord 0x2#4 false d (dirBit dir) 0#8 0#8
  | .stop => packWord 0x3#4 false 0#7 0#1 0#8 0#8
  | .writeDevice b => packWord 0x4#4 false 0#7 0#1 0#8 b
  | .readDeviceWithAck => packWord 0x5#4 false 0#7 0#1 0#8 0#8
  | .readDeviceWithNak => packWord 0x6#4 false 0#7 0#1 0#8 0#8
  | .writeBytes d n ss => packWord 0x8#4 ss d 0#1 0#8 (countByte n)
  | .readBytes d n ss => packWord 0x9#4 ss d 0#1 0#8 (countByte n)
  | .writeRegister d r v => packWord 0xA#4 false d 0#1 r v
  | .writeRegisterMulti d r n => packWord 0xB#4 false d 0#1 r (countByte n)
  | .readRegister d r => packWord 0xC#4 false d 0#1 r 0#8
  | .readRegisterMulti d r n => packWord 0xD#4 false d 0#1 r (countByte n)
  | .scanBus => packWord 0xE#4 false 0#7 0#1 0#8 0#8

/-! ## The address byte (R65) -/

/-- SLA+R/W: `(zext_8(d) << 1) | zext_8(dir)`. -/
def slaByte (d : Addr7) (dir : Dir) : Byte := (d.zeroExtend 8 <<< 1) ||| (dirBit dir).zeroExtend 8

end Sys2Proof
end

