-- ==== Sys2Proof/Bus.lean ====
section
/-! DEFINITION. The vocabulary of the bus level: the phases of a transaction (R26), the failure detail (R32, R130), the
events of the bus log (R30), the symbols of the wire trace (R100), the six primitives (R15), the kind of an
acknowledge (R17), and why a step failed (R113, R118). -/

namespace Sys2Proof

/-- Where the bus transaction stands (R26). -/
inductive Phase where
  /-- No transaction; the bus is released. -/
  | idle
  /-- The last start attempt did not establish a start condition. -/
  | startFail
  /-- A start condition was established and the address byte was NAKed. -/
  | addrNak
  /-- SLA+W was ACKed; master transmitter. -/
  | tx
  /-- SLA+R was ACKed, or the last read asserted ACK. -/
  | rx
  /-- The last read asserted NAK. -/
  | rxEnd
deriving DecidableEq, Repr

/-- The transient failure detail (R32, codes of R130). -/
inductive Cause where
  | none
  | startFail
  | addrNak
  | dataNak
deriving DecidableEq, Repr

/-- The six backend operations (R15, R28). -/
inductive Primitive where
  | start
  | repeatStart
  | stop
  | writeDevice
  | readDeviceWithAck
  | readDeviceWithNak
deriving DecidableEq, Repr

/-- The event vocabulary of the bus log (R30). -/
inductive Event where
  /-- `START(d,dir)` -/
  | start (d : Addr7) (dir : Dir)
  /-- `RSTART(d,dir)` -/
  | rstart (d : Addr7) (dir : Dir)
  /-- `START-FAIL` -/
  | startFail
  /-- `ADDR-ACK` -/
  | addrAck
  /-- `ADDR-NAK` -/
  | addrNak
  /-- `WRITE(b)` -/
  | write (b : Byte)
  /-- `READ(b)` -/
  | read (b : Byte)
  /-- `ACK`: the responder's after a `WRITE`, the master's after a `READ`. -/
  | ack
  /-- `NAK`, likewise. -/
  | nak
  /-- `STOP` -/
  | stop
  /-- `FOUND(a)` -/
  | found (a : Addr7)
  /-- `HANG` -/
  | hang
deriving DecidableEq, Repr

/-- The symbols of the wire trace (R100). -/
inductive WireSym where
  /-- `S`: a start condition, the bus not owned before. -/
  | S
  /-- `Sr`: a repeated start, the master owning the bus. -/
  | Sr
  /-- `P`: a stop condition. -/
  | P
  /-- `M(x)`: one clock with the master driving SDA to bit `x`. -/
  | M (x : Bool)
  /-- `T(x)`: one clock with a responder driving SDA to bit `x`. -/
  | T (x : Bool)
  /-- The start condition that was attempted and not established (R102: "(owned ? Sr : S) attempted; no data clocks");
  the flag says whether it was a repeated start. -/
  | attempted (repeated : Bool)
deriving DecidableEq, Repr

/-- Which byte a responder acknowledges (R17). -/
inductive AckKind where
  | address
  | data
deriving DecidableEq, Repr

/-- What the backend's raw status says of a step that returned false (R113, R118); the bus level keeps none of it
(R22, R130). -/
inductive Why where
  /-- The receiver drove NAK. -/
  | nak
  /-- Arbitration was lost in the step. -/
  | arbitrationLost
  /-- An illegal start or stop was seen on the bus. -/
  | busError
deriving DecidableEq, Repr, Inhabited

end Sys2Proof
end

