-- ==== Sys2Proof/Config.lean ====
section
/-! DEFINITION. What an implementation fixes (R9, R10, R19) and the free values: the parameters of a run, the open
parameters `BACKEND`, `REG_MAP`, `SDA_PIN`, `SCL_PIN`, and the bus environment's answers (R17) where no answer is
queued in the state. -/

namespace Sys2Proof

/-- The two backends (R9); exactly one is compiled in. -/
inductive Backend where
  | hardwareTwi
  | usiTwi
deriving DecidableEq, Repr, Inhabited

/-- The parameters of R10 that a rule reads; they never change during a run (R19). -/
structure Params where
  /-- `BACKEND` (R9). -/
  backend : Backend
  /-- `WAIT_BOUND`: `none` is the reference behaviour, no bound (R10, R134, R135). -/
  waitBound : Option Nat
  /-- `WB_PROPAGATE_DATA_NAK` (R10, R87). -/
  wbPropagateDataNak : Bool
  /-- `WRM_CONTINUE_AFTER_NAK` (R10, R90). -/
  wrmContinueAfterNak : Bool
deriving DecidableEq, Repr

/-- `BACKEND` of the machine after reset: an argument with no default (R10), so a constant nothing can evaluate. -/
opaque Config.backend : Backend

/-- The defaults of R10. -/
def Params.default : Params :=
  { backend := Config.backend, waitBound := none, wbPropagateDataNak := false, wrmContinueAfterNak := false }

/-! ## The bus environment (R17): "answers, from the bus log so far and a free choice"

Each function is a free value: it has no body. The number is the count of draws made so far (`Env.draws`). -/

/-- `Env.startCond()`. -/
opaque Config.envStartCond : List Event → Nat → Bool

/-- `Env.ack(kind, b)`. -/
opaque Config.envAck : List Event → Nat → AckKind → Byte → Bool

/-- `Env.readByte()`. -/
opaque Config.envReadByte : List Event → Nat → Byte

/-- `Env.ownedAfterFail()`. -/
opaque Config.envOwnedAfterFail : List Event → Nat → Bool

/-- Completion of a `Wait()`: after how many polls it comes, or that it never comes (R17, R134). -/
opaque Config.envWaitPolls : List Event → Nat → Option Nat

/-- What the backend's raw status says of a failed step (R113, U8). -/
opaque Config.envWhy : List Event → Nat → Why

/-! ## The peripherals' places (R14, R42, R110, R122): open -/

/-- The peripheral registers the spec names (R110, R122). -/
inductive PeripheralReg where
  | twbr
  | twsr
  | twar
  | twdr
  | twcr
  | twamr
  | usicr
  | usisr
  | usidr
  | usibr
deriving DecidableEq, Repr

/-- A port pin: a port and a bit of it. -/
structure PortPin where
  port : Nat
  bit : Nat
deriving DecidableEq, Repr, Inhabited

/-- `REG_MAP`: the address of each peripheral register on the target chip, open (R10, R42). -/
opaque Config.regMap : PeripheralReg → Nat

/-- `SDA_PIN`, open (R10, R121). -/
opaque Config.sdaPin : PortPin

/-- `SCL_PIN`, open (R10, R121). -/
opaque Config.sclPin : PortPin

/-- The bit rate the implementation sets, the value of `TWBR` (R8, R152): open. -/
opaque Config.twiBitRate : BitVec 8

/-- The prescaler it sets beside it, of which `TWSR` holds bits 1:0 (R112, R152): open. -/
opaque Config.twiPrescaler : BitVec 8

/-- The example addresses of R110 (ATmega328P data space) and R122 (ATtiny85 I/O space); examples only. -/
def Config.exampleRegMap : PeripheralReg → Nat
  | .twbr => 0xB8
  | .twsr => 0xB9
  | .twar => 0xBA
  | .twdr => 0xBB
  | .twcr => 0xBC
  | .twamr => 0xBD
  | .usicr => 0x0D
  | .usisr => 0x0E
  | .usidr => 0x0F
  | .usibr => 0x10

end Sys2Proof
end

