-- ==== Sys2Proof/Machine/State.lean ====
section
/-! DEFINITION. The state of the block (R21..R38, R33's backend registers included), as plain data, and the state after
reset (R38, R150). INVENTORY.md, '## State', lists every field with its rule and its reset value. -/

namespace Sys2Proof.Machine

/-- Why the machine stops with a fault. -/
inductive Fault where
  /-- A `Wait()` exhausted `WAIT_BOUND` earlier: a hung state is terminal (R34). Raised by every operation and every
  step in a hung state. Safe: nothing is claimed beyond it. -/
  | hung
  /-- The engine is in a `Wait()` the environment never completes, with no bound: it has no step (R34, R134). Raised by
  `step` in a state whose operation is still in progress. Safe: nothing is claimed beyond it. -/
  | blocked
  /-- Every operation of the caller's list has completed (R25): nothing is left to run. Raised by `step`. Safe. Whether
  the run has ended in the sense of R156 also depends on the marks (`RunEnded` in Safety.lean). -/
  | runEnded
deriving DecidableEq, Repr

/-- The model faults of the spec (R24, R133): each sets the mark `faulted` and gives no value; none stops the machine. -/
inductive ModelFault where
  /-- `OK` or `RD` was read while unwritten. -/
  | unwrittenRead
deriving DecidableEq, Repr

/-- Why an operation is refused (R132: "an operation the model gives no meaning to is refused"). -/
inductive Refusal where
  /-- The operation has no meaning in the model yet. Raised by `exec`. Safe. -/
  | notModelled (mnemonic : String)
  /-- Reserved `OP`, or a must-be-zero field that is not zero (R66). Raised by `step`, from the decoder. Safe. -/
  | illegalEncoding
  /-- A primitive outside its phases, or a composite in phase `Rx` (R28, R29). Raised by every operation. Safe. -/
  | outOfPhase
  /-- An operation issued while another is in progress (R31). Raised by every operation. Safe. -/
  | reentrant
  /-- `readBytes` or `readRegisterMulti` with count 0 (R88, R92). Raised by those two. Safe. -/
  | zeroCount
  /-- A buffer shorter than the count (R46). Raised by the four operations with a buffer. Safe. -/
  | shortBuffer
deriving DecidableEq, Repr

/-- What an operation answers. -/
abbrev Answer (σ : Type) := Host.Outcome σ Fault Refusal

/-- The caller's memory, in which its buffers stand (R43): address and byte pairs, in the canonical form
`Memory.wf`. -/
abbrev Memory := List Host.Cell

/-- A caller buffer: byte `i` of `BUF` stands at `base + i`, and `len(BUF)` is `len` (R46). -/
structure BufRef where
  base : Nat
  len : Nat
deriving DecidableEq, Repr

/-- What the `scanBus` callback does (R149): "may read or write any caller state except the block's; any operation it
issues is refused `Reentrant`". -/
inductive CallbackAct where
  /-- It stores a byte in the caller's memory. -/
  | store (addr : Nat) (v : Byte)
  /-- It issues an operation. -/
  | issue (word : Word32)
deriving DecidableEq, Repr

/-- The callback as data: what it does when it receives the address `a`, in order. A scan calls it at most once for an
address (R93), so every behaviour of a callback in a scan is such a list. -/
abbrev Callback := List (Addr7 × CallbackAct)

/-- What the caller hands over to issue an operation (R148): a command word, and beside it a buffer and a callback. -/
structure Command where
  word : Word32
  buf : BufRef
  cb : Callback
deriving DecidableEq, Repr

/-- What the caller does between operations besides issuing them (R24, R148). -/
inductive CallerMove where
  /-- It reads `OK`. -/
  | readOk
  /-- It reads `RD`. -/
  | readRd
  /-- It stores a byte in its memory. -/
  | store (addr : Nat) (v : Byte)
deriving DecidableEq, Repr

/-- The input registers of R21, unwritten (`none`) until an operation that uses them is issued (R38). -/
structure InputRegs where
  dev : Option Addr7
  dir : Option Dir
  a : Option Byte
  b : Option Byte
  ss : Option Bool
deriving DecidableEq, Repr

/-- The bus environment (R17): the answers queued for each kind of draw, first to be given first. Where a queue is
empty the answer is the free value of `Config`. `draws` counts the draws made; it is the model's own. -/
structure Env where
  startConds : List Bool
  acks : List Bool
  bytes : List Byte
  ownedAfterFails : List Bool
  /-- After how many polls the `Wait()` completes; `none`: never. -/
  waits : List (Option Nat)
  whys : List Why
  draws : Nat
deriving DecidableEq, Repr

/-- The TWI peripheral's registers (R110). -/
structure TwiRegs where
  twbr : Byte
  twsr : Byte
  twar : Byte
  twdr : Byte
  twcr : Byte
  twamr : Byte
deriving DecidableEq, Repr

/-- The USI peripheral's registers (R122) and what the USI backend does to its two pins (R121, R125, R126). -/
structure UsiRegs where
  usicr : Byte
  usisr : Byte
  usidr : Byte
  usibr : Byte
  /-- SCL is released (high) rather than pulled low. -/
  sclHigh : Bool
  /-- The SDA port latch is high; low pulls SDA low while SDA is an output. -/
  sdaHigh : Bool
  /-- SDA is an output. -/
  sdaOut : Bool
deriving DecidableEq, Repr

/-- The state of the block, its parameters (R19) and what the caller and the bus hand to it. -/
structure State where
  /-- The parameters of the run (R10, R19). -/
  cfg : Params
  /-- The caller's operation list `ops` (R25). -/
  ops : List Command
  /-- The caller's moves between operations, each with the `opIndex` at which it is made (R148). -/
  moves : List (Nat × CallerMove)
  /-- The bus environment `ENV` (R17). -/
  env : Env
  /-- `DEV`, `DIR`, `A`, `B`, `SS` (R21). -/
  inp : InputRegs
  /-- `BUF` (R21, R46). -/
  buf : BufRef
  /-- The callback beside the word (R93, R149). -/
  cb : Callback
  /-- `OK`, the Transaction Outcome; `none` is unwritten (R22, R24). -/
  ok : Option Bool
  /-- `RD`; `none` is unwritten (R23, R24). -/
  rd : Option Byte
  /-- `opIndex` (R25). -/
  opIndex : Nat
  /-- `phase` (R26). -/
  phase : Phase
  /-- `owned` (R27). -/
  owned : Bool
  /-- The bus log, oldest event first (R30). -/
  log : List Event
  /-- The wire trace, oldest symbol first (R100). -/
  wire : List WireSym
  /-- `inOp` (R31). -/
  inOp : Bool
  /-- `cause` (R32). -/
  cause : Cause
  /-- `hung` (R34). -/
  hung : Bool
  /-- `refused` (R35). -/
  refused : Bool
  /-- `faulted` (R35). -/
  faulted : Bool
  /-- The caller's memory, with the contents of its buffers (R43). -/
  mem : Memory
  /-- The TWI peripheral (R33, R110). -/
  twi : TwiRegs
  /-- The USI peripheral and its pins (R33, R122). -/
  usi : UsiRegs
deriving DecidableEq, Repr

/-- The TWI reset values (R110, R119). -/
def TwiRegs.reset : TwiRegs :=
  { twbr := 0x00#8, twsr := 0xF8#8, twar := 0xFE#8, twdr := 0xFF#8, twcr := 0x00#8, twamr := 0x00#8 }

/-- The USI reset values (R122, R127): all 0x00, the pins ordinary port pins and the lines released. -/
def UsiRegs.reset : UsiRegs :=
  { usicr := 0x00#8, usisr := 0x00#8, usidr := 0x00#8, usibr := 0x00#8, sclHigh := true, sdaHigh := true, sdaOut := false }

/-- An environment with no answer queued. -/
def Env.empty : Env :=
  { startConds := [], acks := [], bytes := [], ownedAfterFails := [], waits := [], whys := [], draws := 0 }

/-- The input registers, unwritten (R38). -/
def InputRegs.unwritten : InputRegs := { dev := none, dir := none, a := none, b := none, ss := none }

/-- The state after reset (R38, R150): waiting for the caller's first operation (R151), no operation handed over yet. -/
def State.reset : State :=
  { cfg := Params.default, ops := [], moves := [], env := Env.empty, inp := InputRegs.unwritten,
    buf := { base := 0, len := 0 }, cb := [], ok := none, rd := none, opIndex := 0, phase := .idle, owned := false,
    log := [], wire := [], inOp := false, cause := .none, hung := false, refused := false, faulted := false, mem := [],
    twi := TwiRegs.reset, usi := UsiRegs.reset }

end Sys2Proof.Machine
end

