-- ==== Sys2Proof/Machine/Twi.lean ====
section
/-! DEFINITION. The TWI peripheral as the HardwareTwi backend uses it: register writes (R110..R112), the status codes
(R113), and the typical sequences R114..R117, cut at the poll loop each `Wait()` stands for (R109). R109..R119 are
informative general knowledge: nothing at the bus level reads these registers (R33). -/

namespace Sys2Proof.Machine

/-! ## Fields of `TWCR` (R111) -/

def twint : Byte := 0x80#8
def twea : Byte := 0x40#8
def twsta : Byte := 0x20#8
def twsto : Byte := 0x10#8
def twwc : Byte := 0x08#8
def twen : Byte := 0x04#8
def twie : Byte := 0x01#8

/-- The bits of `TWCR` that a write sets as written: all but `TWINT`, the read-only `TWWC` and the reserved bit 1. -/
def twcrWritable : Byte := twea ||| twsta ||| twsto ||| twen ||| twie

/-- The flag `TWINT`: the current step is complete (R111). -/
def twintSet (t : TwiRegs) : Bool := t.twcr &&& twint == twint

/-- The status a program masks out of `TWSR` (R112). -/
def twiStatus (t : TwiRegs) : Byte := t.twsr &&& 0xF8#8

/-- The status bits of `TWSR` replaced, the prescaler kept, bit 2 reading 0 (R112). -/
def setTwiStatus (code : Byte) (t : TwiRegs) : TwiRegs :=
  { t with twsr := (code &&& 0xF8#8) ||| (t.twsr &&& 0x03#8) }

/-- A write of `TWCR`: writing 1 to `TWINT` clears it and starts the next step, while which the status is 0xF8 (R111,
R113). -/
def writeTwcr (v : Byte) (t : TwiRegs) : TwiRegs :=
  let kept := t.twcr &&& twwc
  if v &&& twint == twint then setTwiStatus 0xF8#8 { t with twcr := (v &&& twcrWritable) ||| kept }
  else { t with twcr := (v &&& twcrWritable) ||| kept ||| (t.twcr &&& twint) }

/-- A write of `TWDR`: `TWWC` marks one made while `TWINT` = 0 (R111). -/
def writeTwdr (v : Byte) (t : TwiRegs) : TwiRegs :=
  { t with twdr := v, twcr := if twintSet t then t.twcr &&& ~~~twwc else t.twcr ||| twwc }

/-- A write of `TWSR`: only the prescaler bits 1:0 are writable (R112). -/
def writeTwsr (v : Byte) (t : TwiRegs) : TwiRegs :=
  { t with twsr := (t.twsr &&& 0xF8#8) ||| (v &&& 0x03#8) }

/-- The peripheral ends the step in progress: `TWINT` is set and the status tells the outcome (R111, R113). -/
def twiStepDone (code : Byte) (t : TwiRegs) : TwiRegs :=
  setTwiStatus code { t with twcr := t.twcr ||| twint }

/-! ## Status codes (R113) -/

/-- After an established start condition: START, or repeated START when the bus was owned. -/
def startCode (owned : Bool) : Byte := if owned then 0x10#8 else 0x08#8

/-- After a start condition that was not established: a bus still owned shows the bus-error code, a released one shows
lost arbitration or a bus error (R113, R118). -/
def startFailCode (ownedAfter : Bool) (why : Why) : Byte :=
  if ownedAfter then 0x00#8
  else match why with
    | .nak => 0x38#8
    | .arbitrationLost => 0x38#8
    | .busError => 0x00#8

/-- A step that returned false: its own NAK code, lost arbitration, or a bus error. -/
def failCode (nakCode : Byte) : Why → Byte
  | .nak => nakCode
  | .arbitrationLost => 0x38#8
  | .busError => 0x00#8

/-- After SLA+W or SLA+R. -/
def addressCode (dir : Dir) (acked : Bool) (why : Why) : Byte :=
  match dir with
  | .W => if acked then 0x18#8 else failCode 0x20#8 why
  | .R => if acked then 0x40#8 else failCode 0x48#8 why

/-- After a data byte sent. -/
def dataCode (acked : Bool) (why : Why) : Byte := if acked then 0x28#8 else failCode 0x30#8 why

/-- After a data byte received. -/
def readCode (ackReturned : Bool) : Byte := if ackReturned then 0x50#8 else 0x58#8

/-! ## The sequences (R114..R117), each cut in two at its poll -/

/-- R114: `TWCR <- TWINT | TWSTA | TWEN`. -/
def twiStartIssue (t : TwiRegs) : TwiRegs := writeTwcr (twint ||| twsta ||| twen) t

/-- R114: `TWDR <- sla; TWCR <- TWINT | TWEN`; R115 is the same with a data byte. -/
def twiSendIssue (b : Byte) (t : TwiRegs) : TwiRegs := writeTwcr (twint ||| twen) (writeTwdr b t)

/-- R116: `TWCR <- TWINT | TWEN`, with `TWEA` to return ACK. -/
def twiReadIssue (ack : Bool) (t : TwiRegs) : TwiRegs :=
  writeTwcr (if ack then twint ||| twen ||| twea else twint ||| twen) t

/-- R116: the byte received stands in `TWDR`. -/
def twiReadDone (v : Byte) (ack : Bool) (t : TwiRegs) : TwiRegs := twiStepDone (readCode ack) { t with twdr := v }

/-- R117: `TWCR <- TWINT | TWEN | TWSTO`. -/
def twiStopIssue (t : TwiRegs) : TwiRegs := writeTwcr (twint ||| twen ||| twsto) t

/-- R117: `TWSTO` is cleared by hardware when the stop has been executed; `TWINT` is not set. -/
def twiStopDone (t : TwiRegs) : TwiRegs := { t with twcr := t.twcr &&& ~~~twsto }

end Sys2Proof.Machine
end

