-- ==== Sys2Proof/Machine/Usi.lean ====
section
/-! DEFINITION. The USI peripheral and its two pins as the UsiTwi backend uses them: register writes by their fields and
the edge counter (R122..R124), the transfer loop (R125), start and stop signalling (R126), over wired-AND lines (R107); each sequence
is cut at the poll loop its `Wait()` stands for (R120). R122..R127 are informative general knowledge: nothing at the
bus level reads this state (R33). -/

namespace Sys2Proof.Machine

/-! ## Fields (R123, R124) -/

def usisif : Byte := 0x80#8
def usioif : Byte := 0x40#8
def usipf : Byte := 0x20#8
def usidc : Byte := 0x10#8

/-- `USITC`, the bit of `USICR` that toggles the clock pin (R123). -/
def usitc : Byte := 0x01#8

/-- `USIWM1:0`, the wire mode (R123). -/
def usiWireMode (u : UsiRegs) : BitVec 2 := u.usicr.extractLsb' 4 2

/-- `USICS1:0`, the clock source (R123). -/
def usiClockSource (u : UsiRegs) : BitVec 2 := u.usicr.extractLsb' 2 2

/-- `USICLK`, the clock strobe select (R123). -/
def usiClk (u : UsiRegs) : Bool := u.usicr.getLsbD 1

/-- The two wire modes in which the USI drives the bus: `0b10` and `0b11` (R123). -/
def usiTwoWire (u : UsiRegs) : Bool := usiWireMode u == 0b10#2 || usiWireMode u == 0b11#2

/-- "`0b10` with `USICLK = 1` clocks the counter from software strobes" (R123). -/
def usiCountsStrobes (u : UsiRegs) : Bool := usiClockSource u == 0b10#2 && usiClk u

/-- `USIWM1:0 = 0b10, USICS1:0 = 0b10, USICLK = 1` (R125). -/
def twoWireSw : Byte := 0x2A#8

/-- The counter overflow flag `USIOIF` is set (R124). -/
def usiOverflow (u : UsiRegs) : Bool := u.usisr &&& usioif == usioif

/-- A write of `USISR`: bits 7:5 are cleared by writing 1, bit 4 is read-only, bits 3:0 load the counter (R124). -/
def writeUsisr (v : Byte) (u : UsiRegs) : UsiRegs :=
  { u with usisr := (u.usisr &&& 0xE0#8 &&& ~~~v) ||| (u.usisr &&& usidc) ||| (v &&& 0x0F#8) }

/-- Bits most significant first (R48, R101). -/
def msbFirst (x : Byte) : List Bool :=
  [x.getLsbD 7, x.getLsbD 6, x.getLsbD 5, x.getLsbD 4, x.getLsbD 3, x.getLsbD 2, x.getLsbD 1, x.getLsbD 0]

/-- What the master lets SDA be: low when SDA is an output and its latch is low, or in a two-wire mode the MSB of `USIDR`
(R122, R125). -/
def masterSda (u : UsiRegs) : Bool := !u.sdaOut || (u.sdaHigh && (!usiTwoWire u || u.usidr.getLsbD 7))

/-- What the master lets SCL be: its latch, but wire mode `0b11` holds SCL low from the counter's overflow until `USIOIF`
is cleared (R123, R124). -/
def masterScl (u : UsiRegs) : Bool := u.sclHigh && !(usiWireMode u == 0b11#2 && usiOverflow u)

/-- The level of SDA: low when either side pulls it low (R107). -/
def sdaLine (target : Bool) (u : UsiRegs) : Bool := masterSda u && target

/-- One counted clock edge: the 4-bit counter goes up, and its overflow sets `USIOIF` and copies `USIDR` into `USIBR`
(R122, R124). -/
def usiCountEdge (u : UsiRegs) : UsiRegs :=
  if u.usisr &&& 0x0F#8 == 0x0F#8 then { u with usisr := (u.usisr &&& 0xF0#8) ||| usioif, usibr := u.usidr }
  else { u with usisr := u.usisr + 1#8 }

/-- `USIDC` follows a difference between the master's output and the line (R124). -/
def usiCollision (line : Bool) (u : UsiRegs) : UsiRegs :=
  { u with usisr := if u.sdaOut && (masterSda u != line) then u.usisr ||| usidc else u.usisr &&& ~~~usidc }

/-- The fields of `USICR` that a write stores: all but the strobe `USITC`, which acts at once and reads 0 (R123). -/
def setUsicr (v : Byte) (u : UsiRegs) : UsiRegs := { u with usicr := v &&& ~~~usitc }

/-- The clock pin toggled. Where SCL falls in a two-wire mode the line's level is shifted into `USIDR` (R125). DESIGN CHOICE
(log entry 20): it is shifted whatever `USICS` and `USICLK` are, although R125 shows the shift under `TWO_WIRE_SW` only and
R123 describes no other clock source. -/
def toggleScl (line : Bool) (u : UsiRegs) : UsiRegs :=
  { u with sclHigh := !u.sclHigh,
           usidr := if usiTwoWire u && masterScl u then (u.usidr <<< 1) ||| (BitVec.ofBool line).zeroExtend 8 else u.usidr }

/-- The strobe: it toggles the clock pin, shifting as `toggleScl` says, and counts an edge where the counter is clocked from
software strobes (R123), under another clock source none (log entry 20). -/
def usiStrobe (line : Bool) (u : UsiRegs) : UsiRegs :=
  if usiCountsStrobes u then usiCountEdge (toggleScl line u) else toggleScl line u

/-- A write of `USICR`, by its fields (R123), while SDA is at the level `line`: the wire mode, clock source, clock select
and interrupt enables are stored, and `USITC` strobes. -/
def writeUsicr (line : Bool) (v : Byte) (u : UsiRegs) : UsiRegs :=
  if v &&& usitc == usitc then usiStrobe line (setUsicr v u) else setUsicr v u

/-- One pass of the loop of R125, one clock: SCL up, SCL down, with a responder that lets SDA be `target`. -/
def usiClock (target : Bool) (u : UsiRegs) : UsiRegs :=
  let line := sdaLine target u
  let strobe := writeUsicr line (twoWireSw ||| usitc)
  strobe (strobe (usiCollision line u))

/-- The loop of R125, "until USISR.USIOIF = 1", over what a responder puts on SDA in each clock. -/
def usiShift : List Bool → UsiRegs → UsiRegs
  | [], u => u
  | t :: ts, u =>
    let u' := usiClock t u
    if usiOverflow u' then u' else usiShift ts u'

/-- The levels of SDA in the clocks of that loop, first clock first. -/
def usiShiftLine : List Bool → UsiRegs → List Bool
  | [], _ => []
  | t :: ts, u =>
    let u' := usiClock t u
    sdaLine t u :: (if usiOverflow u' then [] else usiShiftLine ts u')

/-- R125, before the loop: clear the four flags, load the counter. The mode the loop writes is set here first, so that the
line's level is `USIDR`'s from the first clock on (log entry 20). -/
def usiTransferBegin (preset : Byte) (u : UsiRegs) : UsiRegs := writeUsisr (0xF0#8 ||| preset) (setUsicr twoWireSw u)

/-- R125, the loop and what follows it: the byte shifted in, and SDA released. -/
def usiTransferEnd (targets : List Bool) (u : UsiRegs) : Byte × UsiRegs :=
  let u' := usiShift targets u
  (u'.usidr, { u' with usidr := 0xFF#8 })

/-- The eight clocks in which the responder leaves SDA alone. -/
def released8 : List Bool := [true, true, true, true, true, true, true, true]

/-- `writeDevice(b)` of R125 up to its poll: `USIDR <- b`, `transfer(0)` begun. -/
def usiSendIssue (b : Byte) (u : UsiRegs) : UsiRegs := usiTransferBegin 0#8 { u with usidr := b, sdaOut := true }

/-- `writeDevice(b)` of R125 from its poll on, and the bit the responder drove in the ninth clock. -/
def usiSendResult (k : Bool) (u : UsiRegs) : Bool × UsiRegs :=
  let u1 := (usiTransferEnd released8 u).2
  let r := usiTransferEnd [k] (usiTransferBegin 14#8 { u1 with sdaOut := false })
  (r.1.getLsbD 0, { r.2 with sdaOut := true })

/-- The registers after `writeDevice(b)`. -/
def usiSendDone (k : Bool) (u : UsiRegs) : UsiRegs := (usiSendResult k u).2

/-- A read of R125 up to its poll: SDA an input, `transfer(0)` begun. -/
def usiReadIssue (u : UsiRegs) : UsiRegs := usiTransferBegin 0#8 { u with sdaOut := false }

/-- A read of R125 from its poll on, and the byte read: `USIDR` is 0x00 to send ACK, 0xFF to send NAK. -/
def usiReadResult (v : Byte) (ack : Bool) (u : UsiRegs) : Byte × UsiRegs :=
  let r := usiTransferEnd (msbFirst v) u
  let u1 := { r.2 with sdaOut := true, usidr := if ack then 0x00#8 else 0xFF#8 }
  (r.1, (usiTransferEnd [true] (usiTransferBegin 14#8 u1)).2)

/-- The registers after a read. -/
def usiReadDone (v : Byte) (ack : Bool) (u : UsiRegs) : UsiRegs := (usiReadResult v ack u).2

/-- R126, start up to its poll: release SCL. -/
def usiStartIssue (u : UsiRegs) : UsiRegs := { u with sclHigh := true }

/-- R126, start from its poll on: pull SDA low, pull SCL low, release SDA; `USISIF` says that the start condition was
established. -/
def usiStartDone (established : Bool) (u : UsiRegs) : UsiRegs :=
  { u with usisr := if established then u.usisr ||| usisif else u.usisr &&& ~~~usisif, sclHigh := false, sdaHigh := true, sdaOut := true }

/-- R126, stop up to its poll: pull SDA low, release SCL. -/
def usiStopIssue (u : UsiRegs) : UsiRegs := { u with sdaOut := true, sdaHigh := false, sclHigh := true }

/-- R126, stop from its poll on: release SDA while SCL is high; `USIPF` confirms the release. -/
def usiStopDone (u : UsiRegs) : UsiRegs := { u with sdaHigh := true, usisr := u.usisr ||| usipf }

end Sys2Proof.Machine
end

