-- ==== Sys2Proof/Machine/Ops.lean ====
section
/-! DEFINITION. The named operations every meaning is built from: the caller's memory (R43..R47), the draws from the bus
environment (R12, R17), the bus log and the wire trace (R30, R100), the backend in use (R9), `Wait()` (R134, R135),
admission (R28, R29), the common frame of an operation (R76, R86), the handing over of a command (R21, R25), the
caller's own moves (R148, R149), and the marks (R35).

There is no trap to take and none to return from (R129, R138, R139): a failure is a `false` result, and its one shared
operation is the recording of its cause in `setCause` beside the log. -/

namespace Sys2Proof.Machine

/-! ## The caller's memory (R43, R47) -/

/-- What an unlisted address of the caller's memory reads as. DESIGN CHOICE: the spec leaves the caller's contents to
the caller (R38). -/
def unlisted : Byte := 0x00#8

/-- The canonical form: addresses strictly rising, no entry equal to what an unlisted address reads as. -/
abbrev Memory.wf (m : Memory) : Prop := m.Pairwise (fun x y => x.1 < y.1) ∧ ∀ c ∈ m, c.2 ≠ unlisted

/-- One byte of the caller's memory. -/
def Memory.read : Memory → Nat → Byte
  | [], _ => unlisted
  | (k, v) :: m, a => if a = k then v else Memory.read m a

/-- A byte put in front, unless it is what an unlisted address reads as. -/
def Memory.push (a : Nat) (v : Byte) (m : Memory) : Memory := if v = unlisted then m else (a, v) :: m

/-- One byte stored, the canonical form kept. -/
def Memory.write : Memory → Nat → Byte → Memory
  | [], a, v => Memory.push a v []
  | (k, w) :: m, a, v =>
    if a < k then Memory.push a v ((k, w) :: m)
    else if a = k then Memory.push a v m
    else (k, w) :: Memory.write m a v

/-- Where byte `i` of a buffer stands. -/
def BufRef.addr (b : BufRef) (i : Nat) : Nat := b.base + i

/-- `MemRead(BUF, i, 1)` (R47). -/
def memRead (buf : BufRef) (i : Nat) (s : State) : Byte := s.mem.read (buf.addr i)

/-- A byte of the caller's memory stored. -/
def storeByte (a : Nat) (v : Byte) (s : State) : State := { s with mem := s.mem.write a v }

/-- `MemWrite(BUF, i, 1, v)` (R47). -/
def memWrite (buf : BufRef) (i : Nat) (v : Byte) (s : State) : State := storeByte (buf.addr i) v s

/-! ## Plain writes of one component -/

def setPhase (p : Phase) (s : State) : State := { s with phase := p }
def setOwned (o : Bool) (s : State) : State := { s with owned := o }
def setCause (c : Cause) (s : State) : State := { s with cause := c }
def setEnv (e : Env) (s : State) : State := { s with env := e }

/-- `Log(e)` (R12), for events in order. -/
def logEvents (es : List Event) (s : State) : State := { s with log := s.log ++ es }

/-- Symbols appended to the wire trace (R100). -/
def emit (ws : List WireSym) (s : State) : State := { s with wire := s.wire ++ ws }

/-! ## Draws from the bus environment (R12, R17): the value, and the state after the draw -/

def nextStartCond (s : State) : Bool := s.env.startConds.headD (Config.envStartCond s.log s.env.draws)
def popStartCond (s : State) : State :=
  setEnv { s.env with startConds := s.env.startConds.tail, draws := s.env.draws + 1 } s

def nextAck (kind : AckKind) (b : Byte) (s : State) : Bool := s.env.acks.headD (Config.envAck s.log s.env.draws kind b)
def popAck (s : State) : State := setEnv { s.env with acks := s.env.acks.tail, draws := s.env.draws + 1 } s

def nextByte (s : State) : Byte := s.env.bytes.headD (Config.envReadByte s.log s.env.draws)
def popByte (s : State) : State := setEnv { s.env with bytes := s.env.bytes.tail, draws := s.env.draws + 1 } s

def nextOwnedAfterFail (s : State) : Bool :=
  s.env.ownedAfterFails.headD (Config.envOwnedAfterFail s.log s.env.draws)
def popOwnedAfterFail (s : State) : State :=
  setEnv { s.env with ownedAfterFails := s.env.ownedAfterFails.tail, draws := s.env.draws + 1 } s

def nextWhy (s : State) : Why := s.env.whys.headD (Config.envWhy s.log s.env.draws)
def popWhy (s : State) : State := setEnv { s.env with whys := s.env.whys.tail, draws := s.env.draws + 1 } s

/-- After how many polls the `Wait()` now reached completes, or that it never does. -/
def nextWait (s : State) : Option Nat := s.env.waits.headD (Config.envWaitPolls s.log s.env.draws)
def popWait (s : State) : State := setEnv { s.env with waits := s.env.waits.tail, draws := s.env.draws + 1 } s

/-! ## The backend in use (R9, R108) -/

/-- The step of the backend that is compiled in; the other peripheral is not touched, and nothing but the
peripherals is. -/
def onBackend (twi : TwiRegs → TwiRegs) (usi : UsiRegs → UsiRegs) (s : State) : State :=
  { s with twi := if s.cfg.backend = .hardwareTwi then twi s.twi else s.twi,
           usi := if s.cfg.backend = .usiTwi then usi s.usi else s.usi }

/-! ## A sequence that may stop in a `Wait()` -/

/-- What a body comes to: its result and the state, or the state in which it stays in a `Wait()` for good. -/
inductive Run (α : Type) where
  | done (a : α) (s : State)
  | halt (s : State)

/-- Go on with the result, unless the run stays in a `Wait()`. -/
def Run.bind {α β : Type} (r : Run α) (f : α → State → Run β) : Run β :=
  match r with
  | .done a s => f a s
  | .halt s => .halt s

/-- The completion comes within `WAIT_BOUND` polls, or at all where there is no bound (R134, R135). -/
def inBound (bound polls : Option Nat) : Bool :=
  match polls with
  | none => false
  | some k =>
    match bound with
    | none => true
    | some n => decide (k ≤ n)

/-- The `Wait()` now reached completes. -/
def waitCompletes (s : State) : Bool := inBound s.cfg.waitBound (nextWait s)

/-- A `Wait()` that does not complete: with a bound, `HANG` is logged and the run is hung (R34, R135); without one the
engine has no step, and the operation stays in progress (R34, R134). -/
def giveUp (s : State) : State :=
  match s.cfg.waitBound with
  | none => s
  | some _ => { logEvents [.hang] s with hung := true, inOp := false }

/-- `Wait()` (R12, R134, R135). -/
def wait (s : State) : Run Unit :=
  if waitCompletes s then .done () (popWait s) else .halt (giveUp (popWait s))

/-! ## Admission (R28, R29) -/

/-- The table of R28. -/
def admitted (p : Phase) : Primitive → Bool
  | .start => decide (p ≠ .rx)
  | .repeatStart => decide (p ≠ .rx)
  | .stop => decide (p ≠ .rx)
  | .writeDevice => decide (p = .tx)
  | .readDeviceWithAck => decide (p = .rx)
  | .readDeviceWithNak => decide (p = .rx)

/-- Why a primitive is not admitted, if it is not (R28). -/
def checkPrimitive (k : Primitive) (s : State) : Option Refusal :=
  if admitted s.phase k then none else some .outOfPhase

/-- Why a composite is not admitted, if it is not (R29). -/
def checkComposite (s : State) : Option Refusal := if s.phase = .rx then some .outOfPhase else none

/-- The next check, where the one before it passed (R137: the first reason decides). -/
def thenCheck (r next : Option Refusal) : Option Refusal :=
  match r with
  | some x => some x
  | none => next

/-! ## The frame of an operation (R76, R86) -/

/-- `inOp <- true`. -/
def beginOp (s : State) : State := { s with inOp := true }

/-- `inOp <- false; opIndex <- opIndex + 1`. -/
def endOp (s : State) : State := { s with inOp := false, opIndex := s.opIndex + 1 }

/-- The body's end: the results are written and the operation is over; a run that stays in a `Wait()` returns no result
and does not advance (R34, R135). -/
def complete {α : Type} (write : α → State → State) : Run α → State
  | .done a s => endOp (write a s)
  | .halt s => s

/-- The frame of R76 and R86: a hung state is terminal (R34); the refusals in the order of R137; then the body. -/
def runOp {α : Type} (check : Option Refusal) (body : State → Run α) (write : α → State → State) (s : State) :
    Answer State :=
  if s.hung then .fault .hung
  else if s.inOp then .refused .reentrant
  else match check with
    | some r => .refused r
    | none => .next (complete write (body (beginOp s)))

/-! ## The caller's side -/

/-- `ops[opIndex]`, if the run has not ended (R25). -/
def fetch (s : State) : Option Command := s.ops[s.opIndex]?

/-- The buffer and the callback handed over beside the word (R61, R148). -/
def issue (c : Command) (s : State) : State := { s with buf := c.buf, cb := c.cb }

/-- A command put at a place of the list; the places before it that the list lacks are filled with the same command. -/
def placeAt : List Command → Nat → Command → List Command
  | [], 0, c => [c]
  | [], n + 1, c => c :: placeAt [] n c
  | _ :: l, 0, c => c :: l
  | x :: l, n + 1, c => x :: placeAt l n c

/-- One act of the `scanBus` callback (R149): an operation it issues is refused `Reentrant`, which changes nothing but
the mark `refused` (R132). -/
def callbackAct (act : CallbackAct) (s : State) : State :=
  match act with
  | .store a v => storeByte a v s
  | .issue _ => { s with refused := true }

/-- The callback's acts for the address `a`, in order. -/
def callbackActs (a : Addr7) : List (Addr7 × CallbackAct) → State → State
  | [], s => s
  | (x, act) :: rest, s => callbackActs a rest (if x = a then callbackAct act s else s)

/-- "host runs cb(a)" (R93, R149). -/
def runCallback (a : Addr7) (s : State) : State := callbackActs a s.cb s

/-- The caller's read of `OK`: its value, or the model fault `UnwrittenRead` (R24). -/
def readOk (s : State) : Except ModelFault Bool :=
  match s.ok with
  | some b => .ok b
  | none => .error .unwrittenRead

/-- The caller's read of `RD`, likewise (R24). -/
def readRd (s : State) : Except ModelFault Byte :=
  match s.rd with
  | some v => .ok v
  | none => .error .unwrittenRead

/-- The caller's move that is due before the next operation. -/
def dueMove (s : State) : Option CallerMove :=
  match s.moves with
  | [] => none
  | (k, m) :: _ => if k ≤ s.opIndex then some m else none

/-- That move taken from the list. -/
def dropMove (s : State) : State := { s with moves := s.moves.tail }

/-- A model fault: `faulted <- true` (R35, R133). -/
def raiseModelFault (f : ModelFault) (s : State) : State :=
  match f with
  | .unwrittenRead => { s with faulted := true }

/-- What a read leaves behind: nothing where it gave a value, the mark where it was a model fault. -/
def noteRead {α : Type} (r : Except ModelFault α) (s : State) : State :=
  match r with
  | .ok _ => s
  | .error f => raiseModelFault f s

/-- A caller's move: a read of an output register (R24), or a store in its own memory (R148). -/
def performMove (m : CallerMove) (s : State) : State :=
  match m with
  | .readOk => noteRead (readOk s) s
  | .readRd => noteRead (readRd s) s
  | .store a v => storeByte a v s

/-- The state a run stands in after an answer: a refusal sets the mark, "no state changes except `refused <- true`"
(R35, R132). -/
def settle (s : State) : Answer State → State
  | .next t => t
  | .refused _ => { s with refused := true }
  | .fault _ => s

end Sys2Proof.Machine
end

