-- ==== Sys2Proof/Machine/Flags.lean ====
section
/-! DEFINITION. The block's one flag `OK` and its result register `RD`: which operation writes which (R22, R23, R85,
R86). -/

namespace Sys2Proof.Machine

/-- `OK <- result` (R22, R85, R86). -/
def writeOk (b : Bool) (s : State) : State := { s with ok := some b }

/-- `RD <- result` (R23, R85). -/
def writeRd (v : Byte) (s : State) : State := { s with rd := some v }

/-- Neither is written: `stop` and `scanBus` (R22, R85). -/
def writeNothing (_ : Unit) (s : State) : State := s

/-- `readRegister`: `RD <- v` and `OK` true on success; on failure `RD` becomes unwritten and `OK` false (R23, R91). -/
def writeOkRd (v : Option Byte) (s : State) : State := { s with ok := some v.isSome, rd := v }

end Sys2Proof.Machine
end

