-- ==== Sys2Proof/Machine/Operands.lean ====
section
/-! DEFINITION. The operands of an operation: the input registers the caller writes as it issues it (R21, R62, R63) and the
checks of the buffer and the count (R46, R66, R88, R92). -/

namespace Sys2Proof.Machine

/-- `DEV <- d` (R62). -/
def latchDev (d : Addr7) (s : State) : State := { s with inp := { s.inp with dev := some d } }

/-- `DIR <- dir` (R62). -/
def latchDir (dir : Dir) (s : State) : State := { s with inp := { s.inp with dir := some dir } }

/-- `A <- r` (R62). -/
def latchA (r : Byte) (s : State) : State := { s with inp := { s.inp with a := some r } }

/-- `B <- b` (R62). -/
def latchB (b : Byte) (s : State) : State := { s with inp := { s.inp with b := some b } }

/-- `SS <- ss` (R62). -/
def latchSs (ss : Bool) (s : State) : State := { s with inp := { s.inp with ss := some ss } }

/-- `len(BUF) ≥ count`, or `ShortBuffer` (R46). -/
def checkBuffer (n : Nat) (s : State) : Option Refusal := if s.buf.len < n then some .shortBuffer else none

/-- A read of no byte is `ZeroCount` (R66, R88, R92). -/
def checkCount (n : Nat) : Option Refusal := if n = 0 then some .zeroCount else none

end Sys2Proof.Machine
end

