-- ==== Sys2Proof/Machine/Primitives.lean ====
section
/-! DEFINITION. The six backend primitives (R76..R85): their bodies, which composites run as well (R86), with their wire
traces (R102..R106), and the top-level operations. -/

namespace Sys2Proof.Machine

/-- `Byte_M(x)` (R101). -/
def byteM (x : Byte) : List WireSym := (msbFirst x).map .M

/-- `Byte_T(x)` (R101). -/
def byteT (x : Byte) : List WireSym := (msbFirst x).map .T

/-- The acknowledge bit a receiver drives: 0 is ACK (R100). -/
def ackBit (acked : Bool) : Bool := !acked

/-! ## `start` and `repeatStart` (R77, R78) -/

/-- The start condition driven: `Sr` if owned, else `S` (R102); the master owns the bus (R77). -/
def startEstablished (s : State) : State :=
  setOwned true (emit [if s.owned then .Sr else .S] (onBackend (twiStepDone (startCode s.owned)) (usiStartDone true) s))

/-- A start condition that was not established: "no address byte is sent" (R77); whether the bus is still owned is drawn
after `START-FAIL` is logged (R27). -/
def startFailed (s : State) : State :=
  let s1 := setPhase .startFail (setCause .startFail (logEvents [.startFail] (emit [.attempted s.owned] s)))
  let s2 := popOwnedAfterFail s1
  setOwned (nextOwnedAfterFail s1)
    (onBackend (twiStepDone (startFailCode (nextOwnedAfterFail s1) (nextWhy s2))) (usiStartDone false) (popWhy s2))

/-- The raw status of a step with an acknowledge bit; a reason is drawn only where the step failed (R113). -/
def ackedStep (code : Bool → Why → Byte) (a : Bool) (s : State) : State :=
  if a then onBackend (twiStepDone (code true .nak)) (usiSendDone (ackBit true)) s
  else onBackend (twiStepDone (code false (nextWhy s))) (usiSendDone (ackBit false)) (popWhy s)

/-- The address byte acknowledged or not (R77): log, cause, phase. -/
def addressDone (d : Addr7) (dir : Dir) (s : State) : Run Bool :=
  let a := nextAck .address (slaByte d dir) s
  let s1 := emit (byteM (slaByte d dir) ++ [.T (ackBit a)]) (ackedStep (addressCode dir) a (popAck s))
  if a then .done true (setPhase (match dir with | .W => .tx | .R => .rx) (setCause .none (logEvents [.addrAck] s1)))
  else .done false (setPhase .addrNak (setCause .addrNak (logEvents [.addrNak] s1)))

/-- The address phase after an established start condition (R77). -/
def addressPhase (d : Addr7) (dir : Dir) (s : State) : Run Bool :=
  (wait (onBackend (twiSendIssue (slaByte d dir)) (usiSendIssue (slaByte d dir)) s)).bind
    fun _ s1 => addressDone d dir s1

/-- `body_start(tok, d, dir)` (R77). -/
def bodyStart (tok : Event) (d : Addr7) (dir : Dir) (s : State) : Run Bool :=
  (wait (onBackend twiStartIssue usiStartIssue (logEvents [tok] s))).bind fun _ s1 =>
    if nextStartCond s1 then addressPhase d dir (startEstablished (popStartCond s1))
    else .done false (startFailed (popStartCond s1))

/-! ## `stop` (R79) -/

/-- `body_stop()` (R79). -/
def bodyStop (s : State) : Run Unit :=
  (wait (onBackend twiStopIssue usiStopIssue (logEvents [.stop] s))).bind fun _ s1 =>
    .done () (setOwned false (setPhase .idle (emit [.P] (onBackend twiStopDone usiStopDone s1))))

/-! ## `writeDevice` (R80) -/

/-- The data byte acknowledged or not (R80): log, cause; the phase stays `Tx`. -/
def dataDone (b : Byte) (s : State) : Run Bool :=
  let a := nextAck .data b s
  let s1 := emit (byteM b ++ [.T (ackBit a)]) (ackedStep dataCode a (popAck s))
  .done a (setPhase .tx (setCause (if a then .none else .dataNak) (logEvents [if a then .ack else .nak] s1)))

/-- `body_writeDevice(b)` (R80). -/
def bodyWriteDevice (b : Byte) (s : State) : Run Bool :=
  (wait (onBackend (twiSendIssue b) (usiSendIssue b) (logEvents [.write b] s))).bind fun _ s1 => dataDone b s1

/-! ## The read primitives (R81, R82) -/

/-- `body_readDeviceWithAck()` and `body_readDeviceWithNak()`: the master drives ACK, or leaves the line high (R81, R82,
R104, R105). -/
def bodyRead (ack : Bool) (s : State) : Run Byte :=
  (wait (onBackend (twiReadIssue ack) usiReadIssue s)).bind fun _ s1 =>
    let v := nextByte s1
    let s2 := onBackend (twiReadDone v ack) (usiReadDone v ack) (popByte s1)
    .done v (setPhase (if ack then .rx else .rxEnd)
      (logEvents [.read v, if ack then .ack else .nak] (emit (byteT v ++ [.M (ackBit ack)]) s2)))

/-! ## The top-level operations (R76, R85) -/

/-- R77. -/
def execStart (d : Addr7) (dir : Dir) (s : State) : Answer State :=
  runOp (checkPrimitive .start s) (fun s => bodyStart (.start d dir) d dir (latchDir dir (latchDev d s))) writeOk s

/-- R78. -/
def execRepeatStart (d : Addr7) (dir : Dir) (s : State) : Answer State :=
  runOp (checkPrimitive .repeatStart s) (fun s => bodyStart (.rstart d dir) d dir (latchDir dir (latchDev d s))) writeOk s

/-- R79. -/
def execStop (s : State) : Answer State := runOp (checkPrimitive .stop s) bodyStop writeNothing s

/-- R80. -/
def execWriteDevice (b : Byte) (s : State) : Answer State :=
  runOp (checkPrimitive .writeDevice s) (fun s => bodyWriteDevice b (latchB b s)) writeOk s

/-- R81. -/
def execReadDeviceWithAck (s : State) : Answer State :=
  runOp (checkPrimitive .readDeviceWithAck s) (bodyRead true) writeRd s

/-- R82. -/
def execReadDeviceWithNak (s : State) : Answer State :=
  runOp (checkPrimitive .readDeviceWithNak s) (bodyRead false) writeRd s

end Sys2Proof.Machine
end

