-- ==== Sys2Proof/Machine/Composites.lean ====
section
/-! DEFINITION. The seven composite operations (R86..R99), built only from the primitives' bodies. A composite keeps its
loop index and intermediate results in locals (R37, R86). -/

namespace Sys2Proof.Machine

/-- `call start(d, dir)` (R86). -/
def callStart (d : Addr7) (dir : Dir) (s : State) : Run Bool := bodyStart (.start d dir) d dir s

/-- `call repeatStart(d, dir)` (R86). -/
def callRepeatStart (d : Addr7) (dir : Dir) (s : State) : Run Bool := bodyStart (.rstart d dir) d dir s

/-- The next steps, where the step before them succeeded; otherwise `false` and no further call (R94, R95). -/
def onSuccess (r : Run Bool) (f : State → Run Bool) : Run Bool :=
  r.bind fun a s => if a then f s else .done false s

/-- `k` bytes of the buffer written from index `i` on (R87, R90): the AND of their ACKs; a NAK ends the loop unless
`cont`. -/
def writeLoop (cont : Bool) (buf : BufRef) : Nat → Nat → State → Run Bool
  | 0, _, s => .done true s
  | k + 1, i, s =>
    (bodyWriteDevice (memRead buf i s) s).bind fun a s1 =>
      if a || cont then (writeLoop cont buf k (i + 1) s1).bind fun rest s2 => .done (a && rest) s2
      else .done false s1

/-- `k` bytes read with ACK into the buffer from index `i` on (R88, R92). -/
def readLoop (buf : BufRef) : Nat → Nat → State → Run Unit
  | 0, _, s => .done () s
  | k + 1, i, s => (bodyRead true s).bind fun v s1 => readLoop buf k (i + 1) (memWrite buf i v s1)

/-- The read phase of `n` bytes: all but the last with ACK, the last with NAK (R88, R92, R96). -/
def readPhase (buf : BufRef) (n : Nat) (s : State) : Run Unit :=
  (readLoop buf (n - 1) 0 s).bind fun _ s1 =>
    (bodyRead false s1).bind fun v s2 => .done () (memWrite buf (n - 1) v s2)

/-- `if ss = 1: call stop()` (R87, R88). -/
def stopIf (ss : Bool) (s : State) : Run Unit := if ss then bodyStop s else .done () s

/-- `call stop()`, then the result `a`. -/
def stopThen (a : Bool) (s : State) : Run Bool := (bodyStop s).bind fun _ s1 => .done a s1

/-- `body_writeBytes` (R87). -/
def bodyWriteBytes (d : Addr7) (n : Nat) (ss : Bool) (s : State) : Run Bool :=
  onSuccess (callStart d .W s) fun s1 =>
    (writeLoop false s.buf n 0 s1).bind fun allAck s2 =>
      (stopIf ss s2).bind fun _ s3 => .done (if s.cfg.wbPropagateDataNak then allAck else true) s3

/-- `body_readBytes` (R88). -/
def bodyReadBytes (d : Addr7) (n : Nat) (ss : Bool) (s : State) : Run Bool :=
  onSuccess (callStart d .R s) fun s1 =>
    (readPhase s.buf n s1).bind fun _ s2 => (stopIf ss s2).bind fun _ s3 => .done true s3

/-- `body_writeRegister` (R89): `v` is skipped after a NAK of `r`, and `stop` is sent once the start was established. -/
def bodyWriteRegister (d : Addr7) (r v : Byte) (s : State) : Run Bool :=
  onSuccess (callStart d .W s) fun s1 =>
    (onSuccess (bodyWriteDevice r s1) (bodyWriteDevice v)).bind stopThen

/-- `body_writeRegisterMulti` (R90): `stop` also after a NAK of `r`; the result is the AND of every ACK. -/
def bodyWriteRegisterMulti (d : Addr7) (r : Byte) (n : Nat) (s : State) : Run Bool :=
  onSuccess (callStart d .W s) fun s1 =>
    (onSuccess (bodyWriteDevice r s1) (writeLoop s.cfg.wrmContinueAfterNak s.buf n 0)).bind stopThen

/-- The write-then-read idiom up to its read phase (R91, R92): no `stop` after a failing step. -/
def selectRegister (d : Addr7) (r : Byte) (s : State) : Run Bool :=
  onSuccess (onSuccess (callStart d .W s) (bodyWriteDevice r)) (callRepeatStart d .R)

/-- `body_readRegister` (R91): the byte read, or none where a step failed. -/
def bodyReadRegister (d : Addr7) (r : Byte) (s : State) : Run (Option Byte) :=
  (selectRegister d r s).bind fun a s1 =>
    if a then (bodyRead false s1).bind fun v s2 => (bodyStop s2).bind fun _ s3 => .done (some v) s3
    else .done none s1

/-- `body_readRegisterMulti` (R92). -/
def bodyReadRegisterMulti (d : Addr7) (r : Byte) (n : Nat) (s : State) : Run Bool :=
  onSuccess (selectRegister d r s) fun s1 => (readPhase s.buf n s1).bind fun _ s2 => stopThen true s2

/-- One address of a scan that answered: a dummy read, `stop`, `FOUND(a)`, the callback (R93). -/
def scanFound (a : Addr7) (s : State) : Run Unit :=
  (bodyRead false s).bind fun _ s1 => (bodyStop s1).bind fun _ s2 => .done () (runCallback a (logEvents [.found a] s2))

/-- `k` addresses of a scan from `a` on (R93): no `stop` after a failed attempt. -/
def scanLoop : Nat → Nat → State → Run Unit
  | 0, _, s => .done () s
  | k + 1, a, s =>
    (callStart (BitVec.ofNat 7 a) .R s).bind fun ok s1 =>
      (if ok then scanFound (BitVec.ofNat 7 a) s1 else .done () s1).bind fun _ s2 => scanLoop k (a + 1) s2

/-- `body_scanBus` (R93): 126 attempts, addresses 1 to 126 (90_conflicts.md C1). -/
def bodyScanBus (s : State) : Run Unit := scanLoop 126 1 s

/-! ## The top-level operations (R86) -/

/-- R87. -/
def execWriteBytes (d : Addr7) (n : Nat) (ss : Bool) (s : State) : Answer State :=
  runOp (thenCheck (checkComposite s) (checkBuffer n s))
    (fun s => bodyWriteBytes d n ss (latchSs ss (latchB (countByte n) (latchDev d s)))) writeOk s

/-- R88. -/
def execReadBytes (d : Addr7) (n : Nat) (ss : Bool) (s : State) : Answer State :=
  runOp (thenCheck (checkComposite s) (thenCheck (checkCount n) (checkBuffer n s)))
    (fun s => bodyReadBytes d n ss (latchSs ss (latchB (countByte n) (latchDev d s)))) writeOk s

/-- R89. -/
def execWriteRegister (d : Addr7) (r v : Byte) (s : State) : Answer State :=
  runOp (checkComposite s) (fun s => bodyWriteRegister d r v (latchB v (latchA r (latchDev d s)))) writeOk s

/-- R90. -/
def execWriteRegisterMulti (d : Addr7) (r : Byte) (n : Nat) (s : State) : Answer State :=
  runOp (thenCheck (checkComposite s) (checkBuffer n s))
    (fun s => bodyWriteRegisterMulti d r n (latchB (countByte n) (latchA r (latchDev d s)))) writeOk s

/-- R91. -/
def execReadRegister (d : Addr7) (r : Byte) (s : State) : Answer State :=
  runOp (checkComposite s) (fun s => bodyReadRegister d r (latchA r (latchDev d s))) writeOkRd s

/-- R92. -/
def execReadRegisterMulti (d : Addr7) (r : Byte) (n : Nat) (s : State) : Answer State :=
  runOp (thenCheck (checkComposite s) (thenCheck (checkCount n) (checkBuffer n s)))
    (fun s => bodyReadRegisterMulti d r n (latchB (countByte n) (latchA r (latchDev d s)))) writeOk s

/-- R93. -/
def execScanBus (s : State) : Answer State := runOp (checkComposite s) bodyScanBus writeNothing s

end Sys2Proof.Machine
end

