-- ==== Sys2Proof/Machine/Dispatch.lean ====
section
/-! DEFINITION. One arm per operation (R63). -/

namespace Sys2Proof.Machine

def exec (i : Instr) (s : State) : Host.Outcome State Fault Refusal :=
  match i with
  | .start d dir => Sys2Proof.Machine.execStart d dir s
  | .repeatStart d dir => Sys2Proof.Machine.execRepeatStart d dir s
  | .stop => Sys2Proof.Machine.execStop s
  | .writeDevice b => Sys2Proof.Machine.execWriteDevice b s
  | .readDeviceWithAck => Sys2Proof.Machine.execReadDeviceWithAck s
  | .readDeviceWithNak => Sys2Proof.Machine.execReadDeviceWithNak s
  | .writeBytes d n ss => Sys2Proof.Machine.execWriteBytes d n ss s
  | .readBytes d n ss => Sys2Proof.Machine.execReadBytes d n ss s
  | .writeRegister d r v => Sys2Proof.Machine.execWriteRegister d r v s
  | .writeRegisterMulti d r n => Sys2Proof.Machine.execWriteRegisterMulti d r n s
  | .readRegister d r => Sys2Proof.Machine.execReadRegister d r s
  | .readRegisterMulti d r n => Sys2Proof.Machine.execReadRegisterMulti d r n s
  | .scanBus => Sys2Proof.Machine.execScanBus s

end Sys2Proof.Machine
end

