-- ==== Sys2Proof/Machine/Step.lean ====
section
/-! DEFINITION. One step of the block: a move of the caller that is due, or the next operation of its list (R25, R148). -/

namespace Sys2Proof.Machine

/-- One step. A hung state is terminal (R34) and an engine held in a `Wait()` has no step (R134). A caller's move that is
due comes first; then the engine executes `ops[opIndex]`, decoded (R25, R66). -/
def step (s : State) : Host.Outcome State Fault Refusal :=
  if s.hung then .fault .hung
  else if s.inOp then .fault .blocked
  else match dueMove s with
    | some m => .next (performMove m (dropMove s))
    | none =>
      match fetch s with
      | none => .fault .runEnded
      | some c =>
        match decode c.word with
        | .error .illegalEncoding => .refused .illegalEncoding
        | .ok i => exec i (issue c s)

/-- The longest buffer a count can ask for (R62), for a word handed over with no buffer of its own. -/
def fetchBuffer : BufRef := { base := 0, len := 255 }

/-- `s` with a command word standing where `step` takes its next operation, no caller's move before it. -/
def State.withFetchWord (s : State) (_nbits w : Nat) : State :=
  { s with ops := placeAt s.ops s.opIndex { word := BitVec.ofNat 32 w, buf := fetchBuffer, cb := [] }, moves := [] }

end Sys2Proof.Machine
end

