-- ==== Sys2Proof/Machine/Assembler.lean ====
section
/-! DEFINITION. The assembly syntax (R69), its pseudo-forms (R70) and assembly to a command word (R71). -/

namespace Sys2Proof.Machine

/-- A token of a line, commas and spaces gone: a name, or a number in decimal or hexadecimal (R69). -/
inductive Token where
  | name (x : String)
  | num (n : Nat)
deriving DecidableEq, Repr

/-- `W` or `R` (R69). -/
def parseDir (x : String) : Option Dir :=
  if x = "W" then some .W else if x = "R" then some .R else none

/-- A line's tokens read in the syntax of R69; the buffer and the callback are named by any name. -/
def parseLine : List Token → Option AsmLine
  | [.name m] =>
    if m = "stop" then some .stop
    else if m = "readDeviceWithAck" then some .readDeviceWithAck
    else if m = "readDeviceWithNak" then some .readDeviceWithNak
    else none
  | [.name m, .num b] => if m = "writeDevice" then some (.writeDevice b) else none
  | [.name m, .name _] => if m = "scanBus" then some .scanBus else none
  | [.name m, .num d, .name x] =>
    if m = "start" then (parseDir x).map (.start d)
    else if m = "repeatStart" then (parseDir x).map (.repeatStart d)
    else none
  | [.name m, .num d, .num r] => if m = "readRegister" then some (.readRegister d r) else none
  | [.name m, .num d, .name _, .num n] =>
    if m = "writeBytes" then some (.writeBytes d n none)
    else if m = "readBytes" then some (.readBytes d n none)
    else none
  | [.name m, .num d, .name _, .num n, .num ss] =>
    if m = "writeBytes" then some (.writeBytes d n (some ss))
    else if m = "readBytes" then some (.readBytes d n (some ss))
    else none
  | [.name m, .num d, .num r, .num v] => if m = "writeRegister" then some (.writeRegister d r v) else none
  | [.name m, .num d, .num r, .name _, .num n] =>
    if m = "writeRegisterMulti" then some (.writeRegisterMulti d r n)
    else if m = "readRegisterMulti" then some (.readRegisterMulti d r n)
    else none
  | _ => none

/-- `sendStop`, 1 where it is left out (R70). -/
def sendStopOf : Option Nat → Bool
  | none => true
  | some k => k != 0

/-- The operation a line stands for, its operands cut to their fields. -/
def AsmLine.toInstr : AsmLine → Instr
  | .start d dir => .start (BitVec.ofNat 7 d) dir
  | .repeatStart d dir => .repeatStart (BitVec.ofNat 7 d) dir
  | .stop => .stop
  | .writeDevice b => .writeDevice (BitVec.ofNat 8 b)
  | .readDeviceWithAck => .readDeviceWithAck
  | .readDeviceWithNak => .readDeviceWithNak
  | .writeBytes d n ss => .writeBytes (BitVec.ofNat 7 d) n (sendStopOf ss)
  | .readBytes d n ss => .readBytes (BitVec.ofNat 7 d) n (sendStopOf ss)
  | .writeRegister d r v => .writeRegister (BitVec.ofNat 7 d) (BitVec.ofNat 8 r) (BitVec.ofNat 8 v)
  | .writeRegisterMulti d r n => .writeRegisterMulti (BitVec.ofNat 7 d) (BitVec.ofNat 8 r) n
  | .readRegister d r => .readRegister (BitVec.ofNat 7 d) (BitVec.ofNat 8 r)
  | .readRegisterMulti d r n => .readRegisterMulti (BitVec.ofNat 7 d) (BitVec.ofNat 8 r) n
  | .scanBus => .scanBus

/-- The operation a line assembles to; none is an assembly error (R69). -/
def assemble (l : AsmLine) : Option Instr := if l.wellFormed then some (AsmLine.toInstr l) else none

/-- The command word a line assembles to (R71). -/
def assembleWord (l : AsmLine) : Option Word32 := (assemble l).map encode

end Sys2Proof.Machine
end

