-- ==== Sys2Proof/Machine/LogText.lean ====
section
/-! DEFINITION. The bus log as text (R75): its events in order, separated by one space. -/

namespace Sys2Proof.Machine

/-- An upper-case hexadecimal digit. -/
def hexDigit : Nat → String
  | 0 => "0" | 1 => "1" | 2 => "2" | 3 => "3" | 4 => "4" | 5 => "5" | 6 => "6" | 7 => "7"
  | 8 => "8" | 9 => "9" | 10 => "A" | 11 => "B" | 12 => "C" | 13 => "D" | 14 => "E" | _ => "F"

/-- `0x` and two upper-case hexadecimal digits. -/
def hexByte (n : Nat) : String := "0x" ++ hexDigit (n / 16 % 16) ++ hexDigit (n % 16)

/-- `W` or `R`. -/
def dirText : Dir → String
  | .W => "W"
  | .R => "R"

/-- One event as text, with no space after the comma. -/
def eventText : Event → String
  | .start d dir => "START(" ++ hexByte d.toNat ++ "," ++ dirText dir ++ ")"
  | .rstart d dir => "RSTART(" ++ hexByte d.toNat ++ "," ++ dirText dir ++ ")"
  | .startFail => "START-FAIL"
  | .addrAck => "ADDR-ACK"
  | .addrNak => "ADDR-NAK"
  | .write b => "WRITE(" ++ hexByte b.toNat ++ ")"
  | .read b => "READ(" ++ hexByte b.toNat ++ ")"
  | .ack => "ACK"
  | .nak => "NAK"
  | .stop => "STOP"
  | .found a => "FOUND(" ++ hexByte a.toNat ++ ")"
  | .hang => "HANG"

/-- The bus log as text. -/
def logText : List Event → String
  | [] => ""
  | [e] => eventText e
  | e :: es => eventText e ++ " " ++ logText es

end Sys2Proof.Machine
end

