-- ==== Sys2Proof/Machine/Peripheral.lean ====
section
/-! DEFINITION. The peripheral register space (R39, R42, R144): what stands at an address under a register map, and the
initialisation the launch premise `INIT_DONE` stands for (R152; its contents are general knowledge, G17). No operation
reaches this space except through the backend's own sequences (R42). -/

namespace Sys2Proof.Machine

/-- The value of a peripheral register. -/
def readPeripheral (r : PeripheralReg) (s : State) : Byte :=
  match r with
  | .twbr => s.twi.twbr
  | .twsr => s.twi.twsr
  | .twar => s.twi.twar
  | .twdr => s.twi.twdr
  | .twcr => s.twi.twcr
  | .twamr => s.twi.twamr
  | .usicr => s.usi.usicr
  | .usisr => s.usi.usisr
  | .usidr => s.usi.usidr
  | .usibr => s.usi.usibr

/-- The registers of the peripheral a backend drives (R110, R122). -/
def backendRegs : Backend → List PeripheralReg
  | .hardwareTwi => [.twbr, .twsr, .twar, .twdr, .twcr, .twamr]
  | .usiTwi => [.usicr, .usisr, .usidr, .usibr]

/-- The register of the compiled-in backend that stands at an address of `REG_MAP` (R42). -/
def peripheralAt (a : Nat) (s : State) : Option PeripheralReg :=
  (backendRegs s.cfg.backend).find? fun r => Config.regMap r == a

/-- The TWI made ready: the bit rate and prescaler set, the TWI enabled (R152). The bit rate is the implementation's
(R8, R164): open constants of Config. -/
def initTwi (t : TwiRegs) : TwiRegs :=
  writeTwcr twen (writeTwsr Config.twiPrescaler { t with twbr := Config.twiBitRate })

/-- The USI made ready: two-wire mode, the two pins configured and released (R152). DESIGN CHOICE (log entry 23): R152
does not say which of R123's two two-wire modes is meant, nor which clock source; the model writes `USICR` 0x2A, mode `0b10`
with the software clock that R125's loop strobes (`USICS` `0b10`, `USICLK` 1). Nor does it say which directions "configured"
means; the model makes SDA an output, as R125 leaves it between two bytes, held released by its latch and the MSB of
`USIDR`, and has no direction for SCL, which the master alone drives. -/
def initUsi (u : UsiRegs) : UsiRegs :=
  { setUsicr twoWireSw u with usidr := 0xFF#8, sclHigh := true, sdaHigh := true, sdaOut := true }

/-- The backend initialised once, before the first operation (R152, R153). -/
def initBackend (s : State) : State := onBackend initTwi initUsi s

end Sys2Proof.Machine
end

