-- ==== Sys2Proof/Safety.lean ====
section
/-! DEFINITION. What a safe run is, in the terms claims use: the marks (R35), the launch premises (R154), the end of a run
(R156), completion of the waits (R165), and the invariant of the block's state. -/

namespace Sys2Proof.Machine

/-- `NO_MARKS`: the run is neither refused, nor faulted, nor hung (R154). -/
abbrev NoMarks (s : State) : Prop := s.refused = false ∧ s.faulted = false ∧ s.hung = false

/-- The TWI is ready (R152): "the bit rate set and the TWI enabled". The bit rate is the implementation's. -/
abbrev TwiReady (t : TwiRegs) : Prop :=
  t.twbr = Config.twiBitRate ∧ t.twsr &&& 0x03#8 = Config.twiPrescaler &&& 0x03#8 ∧ t.twcr &&& twen = twen

/-- The master leaves both lines high: SCL and SDA released, by the latches, the mode and the MSB of `USIDR`. DESIGN CHOICE
(log entry 33): on wired-AND lines (R107) a responder too can hold a line low; this is about the master's own outputs. -/
abbrev LinesReleased (u : UsiRegs) : Prop := masterScl u = true ∧ masterSda u = true

/-- The USI is ready (R152): "in two-wire mode and the two pins configured and released". DESIGN CHOICE (log entry 23):
R123 gives two two-wire modes, `0b10` and `0b11`, and R152 names neither a mode nor a clock source; the model takes `USICR` to
be exactly 0x2A, which is mode `0b10` with `USICS` `0b10` and `USICLK` 1 (`twoWireSw`), and "configured" to mean SDA an
output. -/
abbrev UsiReady (u : UsiRegs) : Prop := u.usicr = twoWireSw ∧ u.sdaOut = true ∧ LinesReleased u

/-- `INIT_DONE` (R152): the backend that is compiled in is ready. -/
abbrev InitDone (s : State) : Prop :=
  match s.cfg.backend with
  | .hardwareTwi => TwiReady s.twi
  | .usiTwi => UsiReady s.usi

/-- `BUS_IDLE` (R154, R155): "both lines released high and no other master transacting": the master does not own the bus
and leaves both lines high; there is no other master (R13). DESIGN CHOICE (log entry 30): the spec gives the TWI no level of
its two lines, so with `HardwareTwi` the premise asks nothing of the TWI's registers: a status, `TWSTA` or `TWSTO` left over
from before the run does not fail it, and the two levels it reads are the released ones of the pins the model holds beside
the USI. DESIGN CHOICE (log entry 33): with either backend it asks nothing of responders, which can hold a wired-AND line low
too (R107): the state holds no level of theirs, so a responder that holds SDA or SCL low at launch does not fail it. -/
abbrev BusIdle (s : State) : Prop := s.owned = false ∧ LinesReleased s.usi

/-- `RESET_STATE` (R150): the components R150 lists, at the values of R38; the marks are `NoMarks`. DESIGN CHOICE (log entry
32): it asks nothing of R38's last row, the backend-internal state, nor of the wire trace. Both peripherals' registers may
hold anything that `InitDone` and `BusIdle` allow, not the reset values of R119 and R127 only, and the wire trace need not be
empty. -/
abbrev InResetState (s : State) : Prop :=
  s.phase = .idle ∧ s.owned = false ∧ s.log = [] ∧ s.ok = none ∧ s.rd = none ∧ s.inp = InputRegs.unwritten ∧
    s.inOp = false ∧ s.cause = .none ∧ s.opIndex = 0

/-- The launch premises of R154 that the state shows; `EXCLUSIVE` holds of every run of the model, which has no move for
another driver of the pins, and `BUFFERS_VALID` since every command carries its buffer's length. -/
def LaunchState (s : State) : Prop := InitDone s ∧ InResetState s ∧ BusIdle s ∧ NoMarks s

/-- A run has ended (R156): "`opIndex = length ops` and `inOp = false`"; a run that is hung, refused or faulted has not
ended, and one blocked in a `Wait()` has `inOp` true. DESIGN CHOICE (log entry 31): a caller's move still due at
`opIndex = length ops` does not keep the run from having ended, since R156 names none and the moves are the model's own; a
read among them that finds its register unwritten sets `faulted`, and from then on the run has not ended. -/
abbrev RunEnded (s : State) : Prop := s.opIndex = s.ops.length ∧ s.inOp = false ∧ NoMarks s

/-- The operation has run to its end: it did not stay in a `Wait()`. -/
abbrev Returned (s : State) : Prop := s.inOp = false ∧ s.hung = false

/-- An operation may begin: none is in progress and the run is not hung (R31, R34). -/
abbrev Ready (s : State) : Prop := s.inOp = false ∧ s.hung = false

/-- The next `k` waits have a queued completion within the bound. -/
abbrev WaitsComplete (k : Nat) (s : State) : Prop :=
  k ≤ s.env.waits.length ∧ ∀ w ∈ s.env.waits.take k, inBound s.cfg.waitBound w = true

/-- `ENV_COMPLETES` (R165) for the next `k` waits: each completes after finitely many polls, whether its answer is queued
or, past the queue, the environment's own; under a bound, within it, since otherwise the run hangs (R135). -/
def EnvCompletes (k : Nat) (s : State) : Prop :=
  (∀ w ∈ s.env.waits.take k, inBound s.cfg.waitBound w = true) ∧
    (s.env.waits.length < k → ∀ (log : List Event) (draws : Nat),
      inBound s.cfg.waitBound (Config.envWaitPolls log draws) = true)

/-- The phases in which the master holds the bus (R26). -/
def holdsBus : Phase → Bool
  | .idle => false
  | .startFail => false
  | .addrNak => true
  | .tx => true
  | .rx => true
  | .rxEnd => true

/-- Phase and ownership agree as R26's table has it: `Idle` is released, `StartFail` is a draw, the rest are owned. -/
abbrev PhaseOwned (s : State) : Prop :=
  (s.phase = .idle → s.owned = false) ∧ (holdsBus s.phase = true → s.owned = true)

/-- The fields the spec says read as zero or are held 0: `TWCR` bit 1 and `TWIE`, `TWSR` bit 2, `USISIE` and `USIOIE`
(R111, R112, R123, R140). -/
abbrev ReservedZero (s : State) : Prop :=
  s.twi.twcr &&& 0x03#8 = 0#8 ∧ s.twi.twsr &&& 0x04#8 = 0#8 ∧ s.usi.usicr &&& 0xC0#8 = 0#8

/-- The invariant of the block: the caller's memory is canonical; between operations phase and ownership agree (R26); a
hung state has a bound and no operation in progress (R34, R135); an engine held in a `Wait()` has no bound (R34); the
reserved fields read as the spec says; `opIndex` stays within the list (R25). -/
structure Inv (s : State) : Prop where
  memory : Memory.wf s.mem
  phase : s.inOp = false → s.hung = false → PhaseOwned s
  hungBound : s.hung = true → s.cfg.waitBound ≠ none ∧ s.inOp = false
  heldNoBound : s.inOp = true → s.cfg.waitBound = none
  reserved : ReservedZero s
  index : s.opIndex ≤ s.ops.length

/-- What the bus level shows of a state (R33, R108): everything but which backend is compiled in and the peripherals'
registers. -/
def busLevel (s : State) : State :=
  { s with cfg := { s.cfg with backend := .hardwareTwi }, twi := TwiRegs.reset, usi := UsiRegs.reset }

/-- Two states that the bus level does not tell apart. -/
def SameBus (s t : State) : Prop := busLevel s = busLevel t

/-- Two answers that the bus level does not tell apart. -/
def SameAnswer : Answer State → Answer State → Prop
  | .next s, .next t => SameBus s t
  | .fault f, .fault g => f = g
  | .refused r, .refused q => r = q
  | _, _ => False

/-! ## What a run shows: expected events and symbols -/

/-- The bytes `BUF[0..n-1]`. -/
def bufferBytes (buf : BufRef) (n : Nat) (s : State) : List Byte := (List.range n).map fun i => memRead buf i s

/-- The events of data bytes written, one ACK bit for each: after a NAK nothing more, unless `cont` (R87, R90). -/
def writeEvents (cont : Bool) : List Byte → List Bool → List Event
  | [], _ => []
  | _, [] => []
  | b :: bs, a :: as =>
    [Event.write b, if a then .ack else Event.nak] ++ (if a || cont then writeEvents cont bs as else [])

/-- The events of bytes read: ACK after every byte but the last, NAK after the last (R96). -/
def readEvents : List Byte → List Event
  | [] => []
  | [v] => [Event.read v, .nak]
  | v :: vs => [Event.read v, .ack] ++ readEvents vs

/-- The events of a `stop`, where one is sent. -/
def stopEvents (ss : Bool) : List Event := if ss then [Event.stop] else []

/-- What a `Wait()` that does not complete logs: `HANG` under a bound (R135), nothing with none (R34). -/
def hangEvents : Option Nat → List Event
  | none => []
  | some _ => [.hang]

/-- The events of `k` scan attempts from address `a` on: one ACK bit for each address, one byte for each that answers
(R93). -/
def scanEvents : Nat → Nat → List Bool → List Byte → List Event
  | 0, _, _, _ => []
  | _ + 1, _, [], _ => []
  | k + 1, a, false :: as, bs =>
    [Event.start (BitVec.ofNat 7 a) .R, .addrNak] ++ scanEvents k (a + 1) as bs
  | k + 1, a, true :: as, bs =>
    [Event.start (BitVec.ofNat 7 a) .R, .addrAck, .read (bs.headD 0), .nak, .stop, .found (BitVec.ofNat 7 a)] ++
      scanEvents k (a + 1) as bs.tail

/-- The step that failed is the last of the events, and the phase is the one that step leaves; the bus is held, but for a
failed start, which leaves it as the environment says (R26, R27). -/
abbrev FailedAt (es : List Event) (t : State) : Prop :=
  (es.getLast? = some Event.startFail ∧ t.phase = .startFail) ∨
    (es.getLast? = some Event.addrNak ∧ t.phase = .addrNak ∧ t.owned = true) ∨
    (es.getLast? = some Event.nak ∧ t.phase = .tx ∧ t.owned = true)

/-- What one scan attempt may log (R93, R95, R98). -/
def ScanPiece (a : Addr7) (es : List Event) : Prop :=
  es = [Event.start a .R, .startFail] ∨ es = [Event.start a .R, .addrNak] ∨
    ∃ v, es = [Event.start a .R, .addrAck, .read v, .nak, .stop, .found a]

/-- Eight data clocks in which the master drives a byte, `M(x[7]) .. M(x[0])` (R101). -/
def masterByte (x : Byte) : List WireSym :=
  [.M (x.getLsbD 7), .M (x.getLsbD 6), .M (x.getLsbD 5), .M (x.getLsbD 4), .M (x.getLsbD 3), .M (x.getLsbD 2),
   .M (x.getLsbD 1), .M (x.getLsbD 0)]

/-- Eight data clocks in which a responder drives a byte, `T(x[7]) .. T(x[0])` (R101). -/
def targetByte (x : Byte) : List WireSym :=
  [.T (x.getLsbD 7), .T (x.getLsbD 6), .T (x.getLsbD 5), .T (x.getLsbD 4), .T (x.getLsbD 3), .T (x.getLsbD 2),
   .T (x.getLsbD 1), .T (x.getLsbD 0)]

/-- The acknowledge clock: the line low, 0, is ACK and high, 1, is NAK (R100, R101). -/
def ackLevel (acked : Bool) : Bool := if acked then false else true

/-- The wire of an addressing phase: `S` or `Sr`, the address bits 6 to 0, the direction bit (W = 0, R = 1), the
responder's acknowledge (R65, R100 to R102). -/
def addressWire (owned : Bool) (d : Addr7) (dir : Dir) (acked : Bool) : List WireSym :=
  [if owned then .Sr else .S, .M (d.getLsbD 6), .M (d.getLsbD 5), .M (d.getLsbD 4), .M (d.getLsbD 3), .M (d.getLsbD 2),
   .M (d.getLsbD 1), .M (d.getLsbD 0), .M (match dir with | .W => false | .R => true), .T (ackLevel acked)]

/-- The wire of data bytes written, one ACK bit for each: after a NAK nothing more, unless `cont` (R87, R90, R103). -/
def writeWire (cont : Bool) : List Byte → List Bool → List WireSym
  | [], _ => []
  | _, [] => []
  | b :: bs, a :: as =>
    masterByte b ++ [.T (ackLevel a)] ++ (if a || cont then writeWire cont bs as else [])

/-- The wire of bytes read: the master drives ACK after every byte but the last, NAK after the last (R96, R104, R105). -/
def readWire : List Byte → List WireSym
  | [] => []
  | [v] => targetByte v ++ [.M (ackLevel false)]
  | v :: vs => targetByte v ++ [.M (ackLevel true)] ++ readWire vs

/-- The wire of a `stop`, where one is sent (R106). -/
def stopWire (ss : Bool) : List WireSym := if ss then [.P] else []

/-- The wire of `k` scan attempts from address `a` on: an attempt that is NAKed leaves the bus owned, so the next one drives
`Sr`; one that is ACKed ends with its dummy read and `P`, so the next one drives `S` (R93, R102, R105, R106). -/
def scanWire : Bool → Nat → Nat → List Bool → List Byte → List WireSym
  | _, 0, _, _, _ => []
  | _, _ + 1, _, [], _ => []
  | owned, k + 1, a, false :: as, bs => addressWire owned (BitVec.ofNat 7 a) .R false ++ scanWire true k (a + 1) as bs
  | owned, k + 1, a, true :: as, bs =>
    addressWire owned (BitVec.ofNat 7 a) .R true ++ readWire [bs.headD 0] ++ [.P] ++ scanWire false k (a + 1) as bs.tail

/-! ## What a scan's callback does -/

/-- The addresses the events report `FOUND`, in order. -/
def foundAddrs (es : List Event) : List Addr7 :=
  es.filterMap fun e => match e with
    | .found a => some a
    | _ => none

/-- The stores among a callback's acts for an address, in order. -/
def callbackStores (a : Addr7) (cb : Callback) : List (Nat × Byte) :=
  cb.filterMap fun x => match x.2 with
    | .store b v => if x.1 = a then some (b, v) else none
    | .issue _ => none

/-- What the byte at `a` holds after stores in order, given what it held. -/
def byteAfter (a : Nat) : Byte → List (Nat × Byte) → Byte
  | old, [] => old
  | old, (b, v) :: rest => byteAfter a (if b = a then v else old) rest

/-! ## Legal bus logs: the admission table of R28 read off the log -/

/-- Where a reader of the log stands: between primitives, right after a `STOP`, inside a primitive, or after a hang. -/
inductive LogPoint where
  | between (p : Phase)
  | stopped
  | starting (dir : Dir)
  | writing
  | reading
  | dead
deriving DecidableEq, Repr

/-- The phase of a point between primitives (R26): `Idle` after a `STOP`. -/
def LogPoint.phase : LogPoint → Option Phase
  | .between p => some p
  | .stopped => some .idle
  | .starting _ => none
  | .writing => none
  | .reading => none
  | .dead => none

/-- One event read; none where no primitive admitted there logs it (R26, R28, R30). `FOUND` stands right after a `STOP`
only (R93). -/
def logStep : LogPoint → Event → Option LogPoint
  | .between p, .start _ dir => if p = .rx then none else some (.starting dir)
  | .between p, .rstart _ dir => if p = .rx then none else some (.starting dir)
  | .between p, .stop => if p = .rx then none else some .stopped
  | .between p, .write _ => if p = .tx then some .writing else none
  | .between p, .read _ => if p = .rx then some .reading else none
  | .between _, .hang => some .dead
  | .stopped, .found _ => some (.between .idle)
  | .stopped, .start _ dir => some (.starting dir)
  | .stopped, .rstart _ dir => some (.starting dir)
  | .stopped, .stop => some .stopped
  | .stopped, .hang => some .dead
  | .starting _, .startFail => some (.between .startFail)
  | .starting .W, .addrAck => some (.between .tx)
  | .starting .R, .addrAck => some (.between .rx)
  | .starting _, .addrNak => some (.between .addrNak)
  | .starting _, .hang => some .dead
  | .writing, .ack => some (.between .tx)
  | .writing, .nak => some (.between .tx)
  | .writing, .hang => some .dead
  | .reading, .ack => some (.between .rx)
  | .reading, .nak => some (.between .rxEnd)
  | _, _ => none

/-- A whole log read from a point. -/
def logRun : LogPoint → List Event → Option LogPoint
  | p, [] => some p
  | p, e :: es =>
    match logStep p e with
    | some q => logRun q es
    | none => none

/-- The log is one that the admission table allows, and between operations it ends at the state's phase. -/
def LegalLog (s : State) : Prop :=
  ∃ p, logRun (.between .idle) s.log = some p ∧ (s.inOp = false → s.hung = false → LogPoint.phase p = some s.phase)

/-- The six primitives, as operations. -/
def isPrimitive : Instr → Bool
  | .start _ _ => true
  | .repeatStart _ _ => true
  | .stop => true
  | .writeDevice _ => true
  | .readDeviceWithAck => true
  | .readDeviceWithNak => true
  | .writeBytes _ _ _ => false
  | .readBytes _ _ _ => false
  | .writeRegister _ _ _ => false
  | .writeRegisterMulti _ _ _ => false
  | .readRegister _ _ => false
  | .readRegisterMulti _ _ _ => false
  | .scanBus => false

/-- The phases in which an operation is admitted: the table of R28 row by row, and R29 for the composites. -/
def admittingPhases : Instr → List Phase
  | .start _ _ => [.idle, .startFail, .addrNak, .tx, .rxEnd]
  | .repeatStart _ _ => [.idle, .startFail, .addrNak, .tx, .rxEnd]
  | .stop => [.idle, .startFail, .addrNak, .tx, .rxEnd]
  | .writeDevice _ => [.tx]
  | .readDeviceWithAck => [.rx]
  | .readDeviceWithNak => [.rx]
  | .writeBytes _ _ _ => [.idle, .startFail, .addrNak, .tx, .rxEnd]
  | .readBytes _ _ _ => [.idle, .startFail, .addrNak, .tx, .rxEnd]
  | .writeRegister _ _ _ => [.idle, .startFail, .addrNak, .tx, .rxEnd]
  | .writeRegisterMulti _ _ _ => [.idle, .startFail, .addrNak, .tx, .rxEnd]
  | .readRegister _ _ => [.idle, .startFail, .addrNak, .tx, .rxEnd]
  | .readRegisterMulti _ _ _ => [.idle, .startFail, .addrNak, .tx, .rxEnd]
  | .scanBus => [.idle, .startFail, .addrNak, .tx, .rxEnd]

/-- The fields of a command word that hold these numbers, `RSV` zero (R61). -/
abbrev FieldsAre (w : Word32) (op : Nat) (ss : Bool) (d : Nat) (dir : Dir) (a b : Nat) : Prop :=
  (opField w).toNat = op ∧ ssField w = ss ∧ rsvField w = 0#3 ∧ (devField w).toNat = d ∧ dirField w = dir ∧
    (aField w).toNat = a ∧ (bField w).toNat = b

/-- A line has a command word exactly where its operands are in range, and then with these fields (R69, R71). -/
abbrev LineIs (l : AsmLine) (inRange : Prop) (op : Nat) (ss : Bool) (d : Nat) (dir : Dir) (a b : Nat) : Prop :=
  (inRange → ∃ w, assembleWord l = some w ∧ FieldsAre w op ss d dir a b) ∧ (¬inRange → assembleWord l = none)

/-- How many bytes of `BUF` an operation needs (R46). -/
def bufferNeed : Instr → Nat
  | .start _ _ => 0
  | .repeatStart _ _ => 0
  | .stop => 0
  | .writeDevice _ => 0
  | .readDeviceWithAck => 0
  | .readDeviceWithNak => 0
  | .writeBytes _ n _ => n
  | .readBytes _ n _ => n
  | .writeRegister _ _ _ => 0
  | .writeRegisterMulti _ _ n => n
  | .readRegister _ _ => 0
  | .readRegisterMulti _ _ n => n
  | .scanBus => 0

/-- A read of no byte, which is refused `ZeroCount` (R66). -/
def readsNoByte : Instr → Bool
  | .readBytes _ n _ => n == 0
  | .readRegisterMulti _ _ n => n == 0
  | .start _ _ => false
  | .repeatStart _ _ => false
  | .stop => false
  | .writeDevice _ => false
  | .readDeviceWithAck => false
  | .readDeviceWithNak => false
  | .writeBytes _ _ _ => false
  | .writeRegister _ _ _ => false
  | .writeRegisterMulti _ _ _ => false
  | .readRegister _ _ => false
  | .scanBus => false

/-- The most waits an operation may come to: two for a start, one for each other primitive (R77..R82, R87..R93). -/
def waitsOf : Instr → Nat
  | .start _ _ => 2
  | .repeatStart _ _ => 2
  | .stop => 1
  | .writeDevice _ => 1
  | .readDeviceWithAck => 1
  | .readDeviceWithNak => 1
  | .writeBytes _ n _ => n + 3
  | .readBytes _ n _ => n + 3
  | .writeRegister _ _ _ => 5
  | .writeRegisterMulti _ _ n => n + 4
  | .readRegister _ _ => 7
  | .readRegisterMulti _ _ n => n + 6
  | .scanBus => 504

/-- The most waits a command may come to; an illegal word comes to none (R66). -/
def commandWaits (c : Command) : Nat :=
  match decode c.word with
  | .ok i => waitsOf i
  | .error _ => 0

/-- The most waits the operations of a list may come to. -/
def listWaits : List Command → Nat
  | [] => 0
  | c :: cs => commandWaits c + listWaits cs

/-- The most waits the rest of a run may come to. -/
def waitsLeft (s : State) : Nat := listWaits (s.ops.drop s.opIndex)

/-- The device address and the direction of an operation's first start, where it has one (R73). -/
def firstStart : Instr → Option (Addr7 × Dir)
  | .start d dir => some (d, dir)
  | .repeatStart d dir => some (d, dir)
  | .stop => none
  | .writeDevice _ => none
  | .readDeviceWithAck => none
  | .readDeviceWithNak => none
  | .writeBytes d _ _ => some (d, .W)
  | .readBytes d _ _ => some (d, .R)
  | .writeRegister d _ _ => some (d, .W)
  | .writeRegisterMulti d _ _ => some (d, .W)
  | .readRegister d _ => some (d, .W)
  | .readRegisterMulti d _ _ => some (d, .W)
  | .scanBus => some (1, .R)

/-- The operations that write `OK` (R22). -/
def writesOk : Instr → Bool
  | .start _ _ => true
  | .repeatStart _ _ => true
  | .stop => false
  | .writeDevice _ => true
  | .readDeviceWithAck => false
  | .readDeviceWithNak => false
  | .writeBytes _ _ _ => true
  | .readBytes _ _ _ => true
  | .writeRegister _ _ _ => true
  | .writeRegisterMulti _ _ _ => true
  | .readRegister _ _ => true
  | .readRegisterMulti _ _ _ => true
  | .scanBus => false

/-- The operations that write `RD`, or make it unwritten (R23). -/
def writesRd : Instr → Bool
  | .readDeviceWithAck => true
  | .readDeviceWithNak => true
  | .readRegister _ _ => true
  | .start _ _ => false
  | .repeatStart _ _ => false
  | .stop => false
  | .writeDevice _ => false
  | .writeBytes _ _ _ => false
  | .readBytes _ _ _ => false
  | .writeRegister _ _ _ => false
  | .writeRegisterMulti _ _ _ => false
  | .readRegisterMulti _ _ _ => false
  | .scanBus => false

/-- What no operation but `scanBus` changes: the parameters, the caller's list and moves, the buffer and the callback
handed over, the marks `refused` and `faulted`. -/
structure CallerKept (s t : State) : Prop where
  cfg : t.cfg = s.cfg
  ops : t.ops = s.ops
  moves : t.moves = s.moves
  buf : t.buf = s.buf
  cb : t.cb = s.cb
  refused : t.refused = s.refused
  faulted : t.faulted = s.faulted

end Sys2Proof.Machine
end

