-- ==== Sys2Proof/Certificates/Slice0/Obligations.lean ====
section
/-! DEFINITION. The statements about the block, taken from the spec's numbered rules. The bus environment of a statement is
either every environment, or one whose next answers stand in the queues of `State.env` (log entry 1); a queue holds any
answers, so such a statement is about every sequence of them. -/

open Sys2Proof Sys2Proof.Machine

/-! ## Encoding -/

/-- Decoding the command word of a well-formed operation gives it back (R61..R64, R71). -/
def Obligations.DecodeOfEncode : Prop := ∀ i : Instr, i.wellFormed = true → decode (encode i) = .ok i

/-- A word that decodes is the command word of what it decodes to, which is well formed (R63, R64, R71). -/
def Obligations.EncodeOfDecode : Prop :=
  ∀ (w : Word32) (i : Instr), decode w = .ok i → encode i = w ∧ i.wellFormed = true

/-- As R64 infers it from R61 and R63: no two rows match the same word. -/
def Obligations.OpcodeRowsDisjoint : Prop :=
  ∀ w : Word32, opcodeRows.Pairwise fun r q => ¬(r.selects w = true ∧ q.selects w = true)

/-- R66, in terms of the fields: a reserved `OP`, or a must-be-zero field of the operation's row in R64 that is not zero. -/
def Obligations.IllegalEncodingByFields : Prop :=
  ∀ w : Word32, decode w = .error .illegalEncoding ↔
    opField w = 0x0#4 ∨ opField w = 0x7#4 ∨ opField w = 0xF#4 ∨ rsvField w ≠ 0#3 ∨
    (opField w ≠ 0x8#4 ∧ opField w ≠ 0x9#4 ∧ ssField w = true) ∨
    (opField w ≠ 0x1#4 ∧ opField w ≠ 0x2#4 ∧ dirField w = .R) ∨
    (opField w ∈ [0x3#4, 0x4#4, 0x5#4, 0x6#4, 0xE#4] ∧ devField w ≠ 0#7) ∨
    (opField w ∉ [0xA#4, 0xB#4, 0xC#4, 0xD#4] ∧ aField w ≠ 0#8) ∨
    (opField w ∈ [0x1#4, 0x2#4, 0x3#4, 0x5#4, 0x6#4, 0xC#4, 0xE#4] ∧ bField w ≠ 0#8)

/-- R72's examples, which it derives from R71, R64 and R66, and the two words of R71 that R72 leaves out: each word decodes
to the operation it is written beside, and that operation assembles to it; and the words R72 lists as illegal decode to
none. -/
def Obligations.ExampleWordsDecode : Prop :=
  (∀ p ∈ [(0x10A00000#32, Instr.start 0x50#7 .W), (0x10A10000#32, Instr.start 0x50#7 .R),
      (0x20A10000#32, Instr.repeatStart 0x50#7 .R), (0x10FF0000#32, Instr.start 0x7F#7 .R),
      (0x10000000#32, Instr.start 0x00#7 .W), (0x40000010#32, Instr.writeDevice 0x10#8), (0x30000000#32, Instr.stop),
      (0x50000000#32, Instr.readDeviceWithAck), (0x60000000#32, Instr.readDeviceWithNak),
      (0xA0A010AB#32, Instr.writeRegister 0x50#7 0x10#8 0xAB#8), (0xC0A01000#32, Instr.readRegister 0x50#7 0x10#8),
      (0x88A00003#32, Instr.writeBytes 0x50#7 3 true), (0x90A00002#32, Instr.readBytes 0x50#7 2 false),
      (0xB0D00007#32, Instr.writeRegisterMulti 0x68#7 0x00#8 7), (0xD0D00007#32, Instr.readRegisterMulti 0x68#7 0x00#8 7),
      (0xE0000000#32, Instr.scanBus)],
    decode p.1 = .ok p.2 ∧ encode p.2 = p.1) ∧
  ∀ w ∈ [0x00000000#32, 0x70000000#32, 0xF0000000#32, 0x30000001#32, 0x18A00000#32, 0xA0A110AB#32, 0x81A00003#32],
    decode w = .error .illegalEncoding

/-- P1 and R65, with `W = 0` and `R = 1` (general knowledge in the spec, D3): the address byte is the address shifted left by one with the direction bit, and every byte value is one
of them. -/
def Obligations.AddressByteIsShiftedAddress : Prop :=
  (∀ (d : Addr7) (dir : Dir), slaByte d dir = d ++ dirBit dir ∧
    (slaByte d dir).toNat = 2 * d.toNat + (match dir with | .W => 0 | .R => 1)) ∧
  ∀ b : Byte, ∃ d dir, slaByte d dir = b

/-- Line form by line form: an operand out of its range (`d` 0..127, bytes and counts 0..255, `sendStop` 0 or 1) is an
assembly error (R69); in range the word holds the line's own numbers in the fields of R61, as R71 infers it from R61 and R63;
`sendStop` left out assembles as 1 (R70). And a line's word decodes to the operation the line names. -/
def Obligations.AssemblyOfLines : Prop :=
  (∀ (d r v n k : Nat) (dir : Dir),
    LineIs (.start d dir) (d < 128) 0x1 false d dir 0 0 ∧
    LineIs (.repeatStart d dir) (d < 128) 0x2 false d dir 0 0 ∧
    LineIs .stop True 0x3 false 0 .W 0 0 ∧
    LineIs (.writeDevice v) (v < 256) 0x4 false 0 .W 0 v ∧
    LineIs .readDeviceWithAck True 0x5 false 0 .W 0 0 ∧
    LineIs .readDeviceWithNak True 0x6 false 0 .W 0 0 ∧
    LineIs (.writeBytes d n (some k)) (d < 128 ∧ n < 256 ∧ k < 2) 0x8 (k == 1) d .W 0 n ∧
    LineIs (.writeBytes d n none) (d < 128 ∧ n < 256) 0x8 true d .W 0 n ∧
    LineIs (.readBytes d n (some k)) (d < 128 ∧ n < 256 ∧ k < 2) 0x9 (k == 1) d .W 0 n ∧
    LineIs (.readBytes d n none) (d < 128 ∧ n < 256) 0x9 true d .W 0 n ∧
    LineIs (.writeRegister d r v) (d < 128 ∧ r < 256 ∧ v < 256) 0xA false d .W r v ∧
    LineIs (.writeRegisterMulti d r n) (d < 128 ∧ r < 256 ∧ n < 256) 0xB false d .W r n ∧
    LineIs (.readRegister d r) (d < 128 ∧ r < 256) 0xC false d .W r 0 ∧
    LineIs (.readRegisterMulti d r n) (d < 128 ∧ r < 256 ∧ n < 256) 0xD false d .W r n ∧
    LineIs .scanBus True 0xE false 0 .W 0 0 ∧
    assembleWord (.writeBytes d n none) = assembleWord (.writeBytes d n (some 1)) ∧
    assembleWord (.readBytes d n none) = assembleWord (.readBytes d n (some 1))) ∧
  (∀ l : AsmLine, assembleWord l = none ↔ l.wellFormed = false) ∧
  ∀ (l : AsmLine) (w : Word32), assembleWord l = some w → decode w = .ok (AsmLine.toInstr l)

/-! ## A step, reset, and the ends of a run -/

/-- R150 and R38's table, row by row: what reset leaves. -/
def Obligations.ResetValues : Prop :=
  State.reset.phase = .idle ∧ State.reset.owned = false ∧ State.reset.log = [] ∧ State.reset.ok = none ∧
  State.reset.rd = none ∧ State.reset.inp = { dev := none, dir := none, a := none, b := none, ss := none } ∧
  State.reset.inOp = false ∧ State.reset.cause = .none ∧ State.reset.opIndex = 0 ∧ State.reset.refused = false ∧
  State.reset.faulted = false ∧ State.reset.hung = false

/-- The reset values of the two peripherals' registers (R110, R119, R122, R127, which the spec takes from general knowledge:
log entry 17). -/
def Obligations.PeripheralResetValues : Prop :=
  State.reset.twi = { twbr := 0x00#8, twsr := 0xF8#8, twar := 0xFE#8, twdr := 0xFF#8, twcr := 0x00#8, twamr := 0x00#8 } ∧
  State.reset.usi.usicr = 0x00#8 ∧ State.reset.usi.usisr = 0x00#8 ∧ State.reset.usi.usidr = 0x00#8 ∧
  State.reset.usi.usibr = 0x00#8

/-- A step runs the decoded operation: where no move of the caller is due, `step` hands over the buffer and the callback
of `ops[opIndex]` and answers what the operation answers, and an illegal word is refused (R25, R66). That a due move of the
caller would come first is the model's choice (log entry 7), and so is that a step past the end of the list is the fault
`runEnded` (log entry 5). -/
def Obligations.StepRunsDecodedOperation : Prop :=
  ∀ s : State, Ready s → dueMove s = none →
    (∀ c i, s.ops[s.opIndex]? = some c → decode c.word = .ok i →
      step s = exec i { s with buf := c.buf, cb := c.cb }) ∧
    (∀ c, s.ops[s.opIndex]? = some c → decode c.word = .error .illegalEncoding → step s = .refused .illegalEncoding) ∧
    (s.ops.length ≤ s.opIndex → step s = .fault .runEnded)

/-- A command word placed with `withFetchWord` is what the next step runs. How a word is placed, the 255-byte buffer at
address 0 and the empty callback handed over with it are the model's choice (log entry 14). -/
def Obligations.StepRunsPlacedWord : Prop :=
  ∀ (s : State) (w : Nat) (i : Instr), Ready s → decodeTableWord 32 w = some i →
    step (s.withFetchWord 32 w) =
      exec i { s.withFetchWord 32 w with buf := { base := 0, len := 255 }, cb := [] }

/-- R25: an operation that returns advances `opIndex` by one and leaves no operation in progress; one that hangs or stays
in a `Wait()` does not advance it. -/
def Obligations.OpIndexAdvancesByOne : Prop :=
  ∀ (i : Instr) (s t : State), exec i s = .next t →
    (Returned t → t.opIndex = s.opIndex + 1) ∧ (¬Returned t → t.opIndex = s.opIndex)

/-- R34 and R135: a hang logs `HANG` last, only under a bound, and changes neither result register; a hung state runs
nothing further; with no bound the engine stays in the operation and has no step. A primitive whose first `Wait()` does not
complete has logged what it logs before that wait and leaves phase, ownership and cause as they were (R77 to R82); a start
whose second does not complete owns the bus, its phase as it was (R77), which is all that tells the two apart beside the
wire. No primitive that does not return changes phase or cause, and none but a start changes the ownership. The form of the
two ends is the model's (log entries 3 and 4), and so is what the wire then shows (log entry 12). -/
def Obligations.HungIsTerminal : Prop :=
  (∀ (i : Instr) (s t : State), exec i s = .next t → t.hung = true →
    s.cfg.waitBound ≠ none ∧ t.log.getLast? = some Event.hang ∧ t.ok = s.ok ∧ t.rd = s.rd ∧ t.inOp = false) ∧
  (∀ (i : Instr) (s : State), s.hung = true → exec i s = .fault .hung ∧ step s = .fault .hung) ∧
  (∀ (i : Instr) (s t : State), exec i s = .next t → t.inOp = true →
    s.cfg.waitBound = none ∧ t.hung = false ∧ t.ok = s.ok ∧ t.rd = s.rd ∧ step t = .fault .blocked) ∧
  (∀ (i : Instr) (es : List Event) (s : State),
    (∃ d dir, i = .start d dir ∧ es = [.start d dir]) ∨ (∃ d dir, i = .repeatStart d dir ∧ es = [.rstart d dir]) ∨
      (i = .stop ∧ es = [.stop]) ∨ (∃ b, i = .writeDevice b ∧ es = [.write b]) ∨
      (i = .readDeviceWithAck ∧ es = []) ∨ (i = .readDeviceWithNak ∧ es = []) →
    Ready s → s.phase ∈ admittingPhases i → waitCompletes { s with log := s.log ++ es } = false →
    ∃ t, exec i s = .next t ∧ t.phase = s.phase ∧ t.owned = s.owned ∧ t.cause = s.cause ∧
      t.log = s.log ++ es ++ hangEvents s.cfg.waitBound ∧ t.wire = s.wire ∧ t.hung = s.cfg.waitBound.isSome ∧
      t.inOp = s.cfg.waitBound.isNone) ∧
  (∀ (i : Instr) (tok : Event) (d : Addr7) (dir : Dir) (s : State) (w v : Option Nat) (ws : List (Option Nat))
      (cs : List Bool),
    (i = .start d dir ∧ tok = .start d dir) ∨ (i = .repeatStart d dir ∧ tok = .rstart d dir) →
    Ready s → s.phase ≠ .rx → s.env.startConds = true :: cs → s.env.waits = w :: v :: ws →
    inBound s.cfg.waitBound w = true → inBound s.cfg.waitBound v = false →
    ∃ t, exec i s = .next t ∧ t.phase = s.phase ∧ t.owned = true ∧ t.cause = s.cause ∧
      t.log = s.log ++ [tok] ++ hangEvents s.cfg.waitBound ∧ t.wire = s.wire ++ [if s.owned then .Sr else WireSym.S] ∧
      t.hung = s.cfg.waitBound.isSome ∧ t.inOp = s.cfg.waitBound.isNone) ∧
  (∀ (i : Instr) (s t : State), isPrimitive i = true → exec i s = .next t → ¬Returned t →
    t.phase = s.phase ∧ t.cause = s.cause ∧
      (t.owned = s.owned ∨ (t.owned = true ∧ ∃ d dir, i = .start d dir ∨ i = .repeatStart d dir)))

/-- R165: an operation that is admitted, with its operands in order, and whose every `Wait()` completes, queued or not,
returns. -/
def Obligations.CompletesWhenWaitsComplete : Prop :=
  ∀ (i : Instr) (s : State), Ready s → s.phase ∈ admittingPhases i → readsNoByte i = false → bufferNeed i ≤ s.buf.len →
    EnvCompletes (waitsOf i) s → ∃ t, exec i s = .next t ∧ Returned t ∧ t.opIndex = s.opIndex + 1

/-! ## Refusals and marks -/

/-- R28 and R29: outside a hang, with no operation in progress, an operation is refused `OutOfPhase` exactly in the
phases its row of the table does not mark. -/
def Obligations.AdmissionByPhase : Prop :=
  ∀ (i : Instr) (s : State), Ready s → (exec i s = .refused .outOfPhase ↔ s.phase ∉ admittingPhases i)

/-- R31: an operation issued while another is in progress is refused `Reentrant`, and only then. -/
def Obligations.ReentrantExactlyDuringAnOperation : Prop :=
  ∀ (i : Instr) (s : State), s.hung = false → (exec i s = .refused .reentrant ↔ s.inOp = true)

/-- R46, R66, R88, R92, R137: past the phase check, a read of no byte is refused `ZeroCount`, then a buffer shorter than
the count is refused `ShortBuffer`, then nothing is refused. That the operation then answers a next state even where one of
its waits never completes is the model's form of a hang and of a blocked engine (log entries 3 and 4). -/
def Obligations.OperandRefusalsInOrder : Prop :=
  ∀ (i : Instr) (s : State), Ready s → s.phase ∈ admittingPhases i →
    (exec i s = .refused .zeroCount ↔ readsNoByte i = true) ∧
    (exec i s = .refused .shortBuffer ↔ readsNoByte i = false ∧ s.buf.len < bufferNeed i) ∧
    (readsNoByte i = false → bufferNeed i ≤ s.buf.len → ∃ t, exec i s = .next t)

/-- R35, R132, R133: a refused step leaves the state with `refused` set and nothing else (in the model's form of that
state, `settle`: log entry 6); a step in which the caller reads an unwritten register (a due move, log entry 7) sets
`faulted` and changes nothing but that move; and a step clears neither mark. That the read then answers a next state, so that
the machine goes on, is log entry 29 (DEDUCED: R24 and R133 do not say whether it stops). -/
def Obligations.MarksAreSetAndKept : Prop :=
  (∀ (s : State) (r : Refusal), step s = .refused r → settle s (step s) = { s with refused := true }) ∧
  (∀ s : State, Ready s → (dueMove s = some .readOk ∧ s.ok = none) ∨ (dueMove s = some .readRd ∧ s.rd = none) →
    step s = .next { s with moves := s.moves.tail, faulted := true }) ∧
  ∀ s t : State, step s = .next t → (s.refused = true → t.refused = true) ∧ (s.faulted = true → t.faulted = true)

/-- R24: a read of `OK` or `RD` while it is unwritten is the model fault `UnwrittenRead`, never a value; a written one reads
as what was written. -/
def Obligations.UnwrittenReadFaults : Prop :=
  ∀ s : State,
    (readOk s = .error .unwrittenRead ↔ s.ok = none) ∧ (∀ b, readOk s = .ok b ↔ s.ok = some b) ∧
    (readRd s = .error .unwrittenRead ↔ s.rd = none) ∧ ∀ v, readRd s = .ok v ↔ s.rd = some v

/-- R149, the callback as data (log entry 13): an operation it issues for an address it is called with is refused, so the run is marked. -/
def Obligations.CallbackOperationIsRefused : Prop :=
  ∀ (s t : State) (a : Addr7) (w : Word32) (es : List Event), exec .scanBus s = .next t → t.log = s.log ++ es →
    .found a ∈ es → (a, .issue w) ∈ s.cb → t.refused = true

/-! ## The primitives -/

/-- R77, R78, R85, R102, a start condition established, with either answer to the address byte: log, wire bit by bit
(`addressWire`: R100, R101), phase, ownership, cause, results. -/
def Obligations.StartSendsAddress : Prop :=
  ∀ (i : Instr) (tok : Event) (d : Addr7) (dir : Dir) (a : Bool) (s : State) (cs as : List Bool),
    (i = .start d dir ∧ tok = .start d dir) ∨ (i = .repeatStart d dir ∧ tok = .rstart d dir) →
    Ready s → s.phase ≠ .rx → s.env.startConds = true :: cs → s.env.acks = a :: as → WaitsComplete 2 s →
    ∃ t, exec i s = .next t ∧ t.log = s.log ++ [tok, if a then .addrAck else Event.addrNak] ∧
      t.wire = s.wire ++ addressWire s.owned d dir a ∧
      t.phase = (if a then (match dir with | .W => .tx | .R => .rx) else .addrNak) ∧ t.owned = true ∧
      t.cause = (if a then .none else .addrNak) ∧ t.ok = some a ∧ t.inp.dev = some d ∧ t.inp.dir = some dir ∧
      t.inOp = false ∧ t.opIndex = s.opIndex + 1

/-- R27, R77, R78, R85, R102, the start condition not established: no address byte, ownership as drawn. That the wire trace
shows the attempt as the one symbol `attempted` is the model's choice (log entry 12). -/
def Obligations.StartConditionFails : Prop :=
  ∀ (i : Instr) (tok : Event) (d : Addr7) (dir : Dir) (s : State) (cs os : List Bool) (o : Bool),
    (i = .start d dir ∧ tok = .start d dir) ∨ (i = .repeatStart d dir ∧ tok = .rstart d dir) →
    Ready s → s.phase ≠ .rx → s.env.startConds = false :: cs → s.env.ownedAfterFails = o :: os → WaitsComplete 1 s →
    ∃ t, exec i s = .next t ∧ t.log = s.log ++ [tok, .startFail] ∧ t.wire = s.wire ++ [WireSym.attempted s.owned] ∧
      t.phase = .startFail ∧ t.owned = o ∧ t.cause = .startFail ∧ t.ok = some false ∧ t.inOp = false ∧
      t.opIndex = s.opIndex + 1

/-- R79, R106: `stop`. Refused in phase `Rx` and during an operation; otherwise it never fails: it releases the bus, or it
stays in its `Wait()` (which it reaches with `STOP` logged), hung under a bound; it writes neither result. Under
`WAIT_BOUND = some n` a completion at poll `k` is in time exactly if `k ≤ n` (R135; the boundary `k = n` is log entry 2), and
with no bound every completion is. The form of a `Wait()` that does not complete is the model's (log entries 3 and 4), and so
is that the wire then shows no `P` (log entry 12). -/
def Obligations.StopReleasesTheBus : Prop :=
  (∀ s : State, s.hung = false → s.inOp = true → exec .stop s = .refused .reentrant) ∧
  ∀ s : State, Ready s →
    (s.phase = .rx → exec .stop s = .refused .outOfPhase) ∧
    (s.phase ≠ .rx → waitCompletes { s with log := s.log ++ [Event.stop] } = true →
      ∃ t, exec .stop s = .next t ∧ t.log = s.log ++ [Event.stop] ∧ t.wire = s.wire ++ [WireSym.P] ∧ t.phase = .idle ∧
        t.owned = false ∧ t.ok = s.ok ∧ t.rd = s.rd ∧ t.cause = s.cause ∧ t.inOp = false ∧ t.opIndex = s.opIndex + 1) ∧
    (s.phase ≠ .rx → waitCompletes { s with log := s.log ++ [Event.stop] } = false →
      ∃ t, exec .stop s = .next t ∧ t.phase = s.phase ∧ t.owned = s.owned ∧ t.ok = s.ok ∧ t.rd = s.rd ∧
        t.opIndex = s.opIndex ∧ t.wire = s.wire ∧
        (s.cfg.waitBound = none → t.log = s.log ++ [Event.stop] ∧ t.inOp = true ∧ t.hung = false) ∧
        (s.cfg.waitBound ≠ none → t.log = s.log ++ [Event.stop, .hang] ∧ t.inOp = false ∧ t.hung = true)) ∧
    (s.phase ≠ .rx → ∀ (n k : Nat) (ks : List (Option Nat)), s.cfg.waitBound = some n → s.env.waits = some k :: ks →
      ∃ t, exec .stop s = .next t ∧ (Returned t ↔ k ≤ n) ∧ (t.hung = true ↔ n < k)) ∧
    (s.phase ≠ .rx → ∀ (n : Nat) (ks : List (Option Nat)), s.cfg.waitBound = some n → s.env.waits = none :: ks →
      ∃ t, exec .stop s = .next t ∧ t.hung = true) ∧
    (s.phase ≠ .rx → ∀ (k : Option Nat) (ks : List (Option Nat)), s.cfg.waitBound = none → s.env.waits = k :: ks →
      ∃ t, exec .stop s = .next t ∧ (Returned t ↔ k ≠ none) ∧ (t.inOp = true ↔ k = none))

/-- R80, R85, R103: `writeDevice` with either answer of the responder; the wire bit by bit, `M(b[7]) .. M(b[0])` and then 0
for ACK, 1 for NAK (R100, R101). -/
def Obligations.WriteDeviceSendsByte : Prop :=
  ∀ (b : Byte) (a : Bool) (s : State) (as : List Bool), Ready s → s.phase = .tx → s.env.acks = a :: as →
    WaitsComplete 1 s →
    ∃ t, exec (.writeDevice b) s = .next t ∧ t.log = s.log ++ [Event.write b, if a then .ack else Event.nak] ∧
      t.wire = s.wire ++ masterByte b ++ [WireSym.T (ackLevel a)] ∧ t.phase = .tx ∧ t.owned = s.owned ∧
      t.cause = (if a then .none else .dataNak) ∧ t.ok = some a ∧ t.rd = s.rd ∧ t.inp.b = some b ∧ t.inOp = false ∧
      t.opIndex = s.opIndex + 1

/-- R81, R82, R85, R104, R105: the read primitives; the wire bit by bit, `T(v[7]) .. T(v[0])` and then the master's 0 for
ACK, 1 for NAK (R100, R101). -/
def Obligations.ReadDeviceTakesByte : Prop :=
  ∀ (i : Instr) (ack : Bool) (v : Byte) (s : State) (vs : List Byte),
    (i = .readDeviceWithAck ∧ ack = true) ∨ (i = .readDeviceWithNak ∧ ack = false) →
    Ready s → s.phase = .rx → s.env.bytes = v :: vs → WaitsComplete 1 s →
    ∃ t, exec i s = .next t ∧ t.log = s.log ++ [Event.read v, if ack then .ack else Event.nak] ∧
      t.wire = s.wire ++ targetByte v ++ [WireSym.M (ackLevel ack)] ∧ t.phase = (if ack then .rx else .rxEnd) ∧ t.owned = s.owned ∧
      t.rd = some v ∧ t.ok = s.ok ∧ t.cause = s.cause ∧ t.inOp = false ∧ t.opIndex = s.opIndex + 1

/-- R84: `stop` on an idle bus leaves it idle, and start, stop, start on an ACKing device succeeds twice, both times with
`S`. -/
def Obligations.StopOnIdleBusIsHarmless : Prop :=
  ∀ (d : Addr7) (s : State) (cs as : List Bool), Ready s → s.phase = .idle → s.owned = false →
    s.env.startConds = true :: true :: cs → s.env.acks = true :: true :: as → WaitsComplete 6 s →
    ∃ s1 s2 s3 s4, exec .stop s = .next s1 ∧ s1.phase = .idle ∧ s1.owned = false ∧
      exec (.start d .W) s1 = .next s2 ∧ s2.ok = some true ∧ s2.wire = s1.wire ++ addressWire false d .W true ∧
      exec .stop s2 = .next s3 ∧ exec (.start d .W) s3 = .next s4 ∧ s4.ok = some true ∧
      s4.wire = s3.wire ++ addressWire false d .W true ∧
      s4.log = s.log ++ [Event.stop, .start d .W, .addrAck, .stop, .start d .W, .addrAck]

/-! ## The composites -/

/-- P3, as R95 infers it from R87 to R92: where the first start fails, no other primitive runs: the log gains that start and its failure only, and
the result is false. -/
def Obligations.CompositesFailClosed : Prop :=
  ∀ (i : Instr) (d : Addr7) (dir : Dir) (s t : State) (b : Bool) (cs : List Bool),
    (∃ n ss, i = .writeBytes d n ss ∧ dir = .W) ∨ (∃ n ss, i = .readBytes d n ss ∧ dir = .R) ∨
      (∃ r v, i = .writeRegister d r v ∧ dir = .W) ∨ (∃ r n, i = .writeRegisterMulti d r n ∧ dir = .W) ∨
      (∃ r, i = .readRegister d r ∧ dir = .W) ∨ (∃ r n, i = .readRegisterMulti d r n ∧ dir = .W) →
    s.env.startConds = b :: cs → (b = true → ∃ as, s.env.acks = false :: as) →
    exec i s = .next t → Returned t →
    t.log = s.log ++ [Event.start d dir, if b then .addrNak else Event.startFail] ∧ t.ok = some false ∧
      (∀ a, t.mem.read a = s.mem.read a)

/-- R87: `writeBytes` once the address is ACKed, whatever the ACKs of its data bytes: the bytes in buffer order, nothing
after a NAK, a stop if `ss`, and the result the parameter `WB_PROPAGATE_DATA_NAK` makes of a data NAK. -/
def Obligations.WriteBytesSendsBuffer : Prop :=
  ∀ (d : Addr7) (n : Nat) (ss : Bool) (s : State) (cs as rest : List Bool), Ready s → s.phase ≠ .rx → n ≤ s.buf.len →
    s.env.startConds = true :: cs → s.env.acks = true :: as ++ rest → as.length = n → WaitsComplete (n + 3) s →
    ∃ t, exec (.writeBytes d n ss) s = .next t ∧
      t.log = s.log ++ [Event.start d .W, .addrAck] ++ writeEvents false (bufferBytes s.buf n s) as ++ stopEvents ss ∧
      t.wire = s.wire ++ addressWire s.owned d .W true ++ writeWire false (bufferBytes s.buf n s) as ++ stopWire ss ∧
      t.ok = some (if s.cfg.wbPropagateDataNak then as.all (fun a => a) else true) ∧
      t.phase = (if ss then .idle else .tx) ∧ t.owned = !ss ∧ t.inp.dev = some d ∧ t.inp.b = some (countByte n) ∧
      t.inp.ss = some ss ∧ t.inOp = false ∧ t.opIndex = s.opIndex + 1

/-- R88: `readBytes` once the address is ACKed: all bytes but the last with ACK, stored in buffer order, a stop if
`ss`. -/
def Obligations.ReadBytesFillsBuffer : Prop :=
  ∀ (d : Addr7) (n : Nat) (ss : Bool) (s : State) (cs as : List Bool) (vs rest : List Byte), Ready s → s.phase ≠ .rx →
    1 ≤ n → n ≤ s.buf.len → Memory.wf s.mem → s.env.startConds = true :: cs → s.env.acks = true :: as →
    s.env.bytes = vs ++ rest → vs.length = n → WaitsComplete (n + 3) s →
    ∃ t, exec (.readBytes d n ss) s = .next t ∧
      t.log = s.log ++ [Event.start d .R, .addrAck] ++ readEvents vs ++ stopEvents ss ∧
      t.wire = s.wire ++ addressWire s.owned d .R true ++ readWire vs ++ stopWire ss ∧ bufferBytes s.buf n t = vs ∧
      (∀ a, (∀ j, j < n → a ≠ s.buf.addr j) → t.mem.read a = s.mem.read a) ∧ t.ok = some true ∧ t.rd = s.rd ∧
      t.phase = (if ss then .idle else .rxEnd) ∧ t.owned = !ss ∧ t.inp.dev = some d ∧ t.inp.b = some (countByte n) ∧
      t.inp.ss = some ss ∧ t.inOp = false ∧ t.opIndex = s.opIndex + 1

/-- R89: `writeRegister` once the address is ACKed, with either answer to `r` and to `v`: `v` is skipped after a NAK of
`r`, and `stop` is always sent. -/
def Obligations.WriteRegisterSendsRegisterAndData : Prop :=
  ∀ (d : Addr7) (r v : Byte) (s : State) (cs as : List Bool) (ar av : Bool), Ready s → s.phase ≠ .rx →
    s.env.startConds = true :: cs → s.env.acks = true :: ar :: av :: as → WaitsComplete 5 s →
    ∃ t, exec (.writeRegister d r v) s = .next t ∧
      t.log = s.log ++ [Event.start d .W, .addrAck] ++ writeEvents false [r, v] [ar, av] ++ [Event.stop] ∧
      t.wire = s.wire ++ addressWire s.owned d .W true ++ writeWire false [r, v] [ar, av] ++ [WireSym.P] ∧
      t.ok = some (ar && av) ∧ t.phase = .idle ∧ t.owned = false ∧ t.inp.dev = some d ∧ t.inp.a = some r ∧
      t.inp.b = some v ∧ t.inOp = false ∧ t.opIndex = s.opIndex + 1

/-- R90: `writeRegisterMulti` once the address is ACKed: `r`, then, if it was ACKed, the data bytes until a NAK, or all of
them under `WRM_CONTINUE_AFTER_NAK`; `stop` always; the result is the AND of every ACK of a byte sent. -/
def Obligations.WriteRegisterMultiSendsBuffer : Prop :=
  ∀ (d : Addr7) (r : Byte) (n : Nat) (s : State) (cs as rest : List Bool) (ar : Bool), Ready s → s.phase ≠ .rx →
    n ≤ s.buf.len → s.env.startConds = true :: cs → s.env.acks = true :: ar :: as ++ rest → as.length = n →
    WaitsComplete (n + 4) s →
    ∃ t, exec (.writeRegisterMulti d r n) s = .next t ∧
      t.log = s.log ++ [Event.start d .W, .addrAck, .write r, if ar then .ack else Event.nak] ++
        (if ar then writeEvents s.cfg.wrmContinueAfterNak (bufferBytes s.buf n s) as else []) ++ [Event.stop] ∧
      t.wire = s.wire ++ addressWire s.owned d .W true ++ masterByte r ++ [WireSym.T (ackLevel ar)] ++
        (if ar then writeWire s.cfg.wrmContinueAfterNak (bufferBytes s.buf n s) as else []) ++ [WireSym.P] ∧
      t.ok = some (ar && as.all (fun a => a)) ∧ t.phase = .idle ∧ t.owned = false ∧ t.inp.dev = some d ∧
      t.inp.a = some r ∧ t.inp.b = some (countByte n) ∧ t.inOp = false ∧ t.opIndex = s.opIndex + 1

/-- R91: a `readRegister` every step of which succeeds: `RD` holds the byte, `OK` is true, the bus is released. On the
wire the second start is `Sr` and the last symbol `P` (R102, R103, R105, R106). -/
def Obligations.ReadRegisterSucceeds : Prop :=
  ∀ (d : Addr7) (r v : Byte) (s : State) (cs as : List Bool) (vs : List Byte), Ready s → s.phase ≠ .rx →
    s.env.startConds = true :: true :: cs → s.env.acks = true :: true :: true :: as → s.env.bytes = v :: vs →
    WaitsComplete 7 s →
    ∃ t, exec (.readRegister d r) s = .next t ∧
      t.log = s.log ++
        [Event.start d .W, .addrAck, .write r, .ack, .rstart d .R, .addrAck, .read v, .nak, .stop] ∧
      t.wire = s.wire ++ addressWire s.owned d .W true ++ masterByte r ++ [WireSym.T (ackLevel true)] ++
        addressWire true d .R true ++ targetByte v ++ [WireSym.M (ackLevel false), .P] ∧
      t.ok = some true ∧ t.rd = some v ∧ t.phase = .idle ∧ t.owned = false ∧ t.inp.dev = some d ∧ t.inp.a = some r ∧
      t.inOp = false ∧ t.opIndex = s.opIndex + 1

/-- R23, R91: a `readRegister` that fails makes `RD` unwritten, sends no `stop`, and leaves the phase its failing step
left: the step that failed is the last event logged. -/
def Obligations.ReadRegisterFailsWithoutStop : Prop :=
  ∀ (d : Addr7) (r : Byte) (s t : State) (es : List Event), exec (.readRegister d r) s = .next t → Returned t →
    t.log = s.log ++ es → t.ok = some false → t.rd = none ∧ .stop ∉ es ∧ FailedAt es t

/-- P4, as R97 infers it from R91, over every environment: the log of a successful `readRegister`, and a `STOP` after every `RSTART(d,R)
ADDR-ACK` within the operation. -/
def Obligations.ReadRegisterWriteThenRead : Prop :=
  ∀ (d : Addr7) (r : Byte) (s t : State), exec (.readRegister d r) s = .next t → Returned t →
    (t.ok = some true → ∃ v, t.rd = some v ∧ t.log = s.log ++
      [Event.start d .W, .addrAck, .write r, .ack, .rstart d .R, .addrAck, .read v, .nak, .stop]) ∧
    ∀ es, t.log = s.log ++ es → [Event.rstart d .R, .addrAck] <:+: es → es.getLast? = some Event.stop

/-- R92: a `readRegisterMulti` every step of which succeeds. On the wire the second start is `Sr` and the last symbol `P`
(R102 to R106). -/
def Obligations.ReadRegisterMultiFillsBuffer : Prop :=
  ∀ (d : Addr7) (r : Byte) (n : Nat) (s : State) (cs as : List Bool) (vs rest : List Byte), Ready s → s.phase ≠ .rx →
    1 ≤ n → n ≤ s.buf.len → Memory.wf s.mem → s.env.startConds = true :: true :: cs →
    s.env.acks = true :: true :: true :: as → s.env.bytes = vs ++ rest → vs.length = n → WaitsComplete (n + 6) s →
    ∃ t, exec (.readRegisterMulti d r n) s = .next t ∧
      t.log = s.log ++ [Event.start d .W, .addrAck, .write r, .ack, .rstart d .R, .addrAck] ++ readEvents vs ++ [Event.stop] ∧
      t.wire = s.wire ++ addressWire s.owned d .W true ++ masterByte r ++ [WireSym.T (ackLevel true)] ++
        addressWire true d .R true ++ readWire vs ++ [WireSym.P] ∧
      bufferBytes s.buf n t = vs ∧ (∀ a, (∀ j, j < n → a ≠ s.buf.addr j) → t.mem.read a = s.mem.read a) ∧
      t.ok = some true ∧ t.rd = s.rd ∧ t.phase = .idle ∧ t.owned = false ∧ t.inp.dev = some d ∧ t.inp.a = some r ∧
      t.inp.b = some (countByte n) ∧ t.inOp = false ∧ t.opIndex = s.opIndex + 1

/-- R92: a `readRegisterMulti` that fails sends no `stop`, stores nothing, and leaves the phase of its failing step. -/
def Obligations.ReadRegisterMultiFailsWithoutStop : Prop :=
  ∀ (d : Addr7) (r : Byte) (n : Nat) (s t : State) (es : List Event), exec (.readRegisterMulti d r n) s = .next t →
    Returned t → t.log = s.log ++ es → t.ok = some false →
    .stop ∉ es ∧ (∀ a, t.mem.read a = s.mem.read a) ∧ FailedAt es t

/-- P2, as R96 infers it from R88, R91 and R92, over every environment: in a successful read, every byte but the last is read with ACK and exactly the last
with NAK, and the buffer holds the bytes in order. -/
def Obligations.LastByteReadWithNak : Prop :=
  (∀ (d : Addr7) (n : Nat) (ss : Bool) (s t : State), Memory.wf s.mem → exec (.readBytes d n ss) s = .next t →
    Returned t → t.ok = some true → ∃ vs : List Byte, vs.length = n ∧ bufferBytes s.buf n t = vs ∧
      t.log = s.log ++ [Event.start d .R, .addrAck] ++ readEvents vs ++ stopEvents ss) ∧
  (∀ (d : Addr7) (r : Byte) (n : Nat) (s t : State), Memory.wf s.mem → exec (.readRegisterMulti d r n) s = .next t →
    Returned t → t.ok = some true → ∃ vs : List Byte, vs.length = n ∧ bufferBytes s.buf n t = vs ∧
      t.log = s.log ++ [Event.start d .W, .addrAck, .write r, .ack, .rstart d .R, .addrAck] ++ readEvents vs ++ [Event.stop]) ∧
  ∀ (d : Addr7) (r : Byte) (s t : State), exec (.readRegister d r) s = .next t → Returned t → t.ok = some true →
    ∃ v, t.rd = some v ∧
      t.log = s.log ++ [Event.start d .W, .addrAck, .write r, .ack, .rstart d .R, .addrAck] ++ readEvents [v] ++ [Event.stop]

/-- R93: a scan whose start conditions are all established, for every pattern of address ACKs and every byte driven: log and
wire, attempt by attempt. -/
def Obligations.ScanBusFindsResponders : Prop :=
  ∀ (s : State) (cs as ar : List Bool) (vs rest : List Byte), Ready s → s.phase ≠ .rx →
    s.env.startConds = List.replicate 126 true ++ cs → s.env.acks = as ++ ar → as.length = 126 →
    s.env.bytes = vs ++ rest → vs.length = 126 → WaitsComplete 504 s →
    ∃ t, exec .scanBus s = .next t ∧ t.log = s.log ++ scanEvents 126 1 as vs ∧
      t.wire = s.wire ++ scanWire s.owned 126 1 as vs ∧ t.ok = s.ok ∧ t.rd = s.rd ∧
      t.phase = (if as.getLast? = some true then .idle else .addrNak) ∧
      t.owned = (as.getLast? != some true) ∧ t.inOp = false ∧ t.opIndex = s.opIndex + 1

/-- P5, as R98 infers it from R93, over every environment: a scan that returns tries exactly the addresses 1 to 126 in ascending order, and
logs `FOUND` exactly for those whose address byte was ACKed, after `READ(v) NAK STOP`. That the callback runs for exactly the
addresses logged `FOUND` is a clause of `FrameOfScanBus`. -/
def Obligations.ScanBusTriesEveryAddress : Prop :=
  ∀ s t : State, exec .scanBus s = .next t → Returned t →
    ∃ pieces : List (List Event), pieces.length = 126 ∧ t.log = s.log ++ pieces.flatten ∧
      ∀ (k : Nat) (es : List Event), pieces[k]? = some es → ScanPiece (BitVec.ofNat 7 (k + 1)) es

/-- As R99 infers it from R77, R87 and R88: after `writeBytes` or `readBytes` with `sendStop` 0 whose address was ACKed the bus is owned, in `Tx` or
`RxEnd`, and the next operation's first start, whichever operation that is, drives `Sr`. That the next operation answers a
next state even where a later wait of it never completes is the model's form (log entries 3 and 4). -/
def Obligations.ChainedOperationDrivesRepeatedStart : Prop :=
  ∀ (i : Instr) (p : Phase) (d : Addr7) (n : Nat) (s t : State) (e : Event),
    (i = .writeBytes d n false ∧ p = .tx ∧ e = .start d .W) ∨ (i = .readBytes d n false ∧ p = .rxEnd ∧ e = .start d .R) →
    exec i s = .next t → Returned t → [e, .addrAck] <+: t.log.drop s.log.length →
    t.owned = true ∧ t.phase = p ∧
      ∀ (j : Instr) (d' : Addr7) (dir' : Dir) (cs as : List Bool) (a : Bool), firstStart j = some (d', dir') →
        readsNoByte j = false → bufferNeed j ≤ t.buf.len → t.env.startConds = true :: cs → t.env.acks = a :: as →
        WaitsComplete 2 t → ∃ u, exec j t = .next u ∧ t.wire ++ addressWire true d' dir' a <+: u.wire

/-! ## Frames -/

/-- The frame of the primitives that write `OK`: `start`, `repeatStart` and `writeDevice`. In every next state, failed or
hung ones too, the input registers hold the operands R63 lists (`DEV` and `DIR`, `B`) and the others are as they were; that
they are written once the operation is admitted, and the others not at all, is the model's reading of R21, R63 and R132 (log
entry 9). They store to no memory. -/
def Obligations.FrameOfStartAndWriteDevice : Prop :=
  ∀ (i : Instr) (s t : State), exec i s = .next t →
    (∀ d dir, i = .start d dir ∨ i = .repeatStart d dir →
      t.inp = { s.inp with dev := some d, dir := some dir } ∧ t.rd = s.rd ∧ CallerKept s t ∧
        ∀ a, t.mem.read a = s.mem.read a) ∧
    (∀ b, i = .writeDevice b →
      t.inp = { s.inp with b := some b } ∧ t.rd = s.rd ∧ t.phase = s.phase ∧ t.owned = s.owned ∧ CallerKept s t ∧
        ∀ a, t.mem.read a = s.mem.read a)

/-- The frame of `stop` and of the read primitives: no input register (the model's reading, log entry 9), no flag, no
memory; `RD` is the reads' alone. -/
def Obligations.FrameOfStopAndReads : Prop :=
  ∀ (i : Instr) (s t : State), exec i s = .next t →
    (i = .stop → t.rd = s.rd) ∧
    (i = .readDeviceWithAck ∨ i = .readDeviceWithNak → t.owned = s.owned) ∧
    (i = .stop ∨ i = .readDeviceWithAck ∨ i = .readDeviceWithNak →
      t.inp = s.inp ∧ t.ok = s.ok ∧ t.cause = s.cause ∧ CallerKept s t ∧ ∀ a, t.mem.read a = s.mem.read a)

/-- The frame of the composites that store to no memory: `writeBytes`, `writeRegister`, `writeRegisterMulti` (which leave
`RD` alone) and `readRegister`; the buffer is never written (R87, R90). In every next state, failed or hung ones too, the
input registers hold the operands R63 lists and the others are as they were (the model's reading, log entry 9). -/
def Obligations.FrameOfCompositesThatStoreNothing : Prop :=
  ∀ (i : Instr) (s t : State), exec i s = .next t →
    (∀ d n ss, i = .writeBytes d n ss →
      t.inp = { s.inp with dev := some d, b := some (countByte n), ss := some ss } ∧ t.rd = s.rd) ∧
    (∀ d r v, i = .writeRegister d r v →
      t.inp = { s.inp with dev := some d, a := some r, b := some v } ∧ t.rd = s.rd) ∧
    (∀ d r n, i = .writeRegisterMulti d r n →
      t.inp = { s.inp with dev := some d, a := some r, b := some (countByte n) } ∧ t.rd = s.rd) ∧
    (∀ d r, i = .readRegister d r → t.inp = { s.inp with dev := some d, a := some r }) ∧
    ((∃ d n ss, i = .writeBytes d n ss) ∨ (∃ d r v, i = .writeRegister d r v) ∨
        (∃ d r n, i = .writeRegisterMulti d r n) ∨ (∃ d r, i = .readRegister d r) →
      CallerKept s t ∧ ∀ a, t.mem.read a = s.mem.read a)

/-- The frame of the composites that fill the buffer: `readBytes` and `readRegisterMulti` store only to bytes `0..n-1` of
`BUF` (R46), and do not write `RD` (R23). In every next state, failed or hung ones too, the input registers hold the operands
R63 lists and the others are as they were (the model's reading, log entry 9). -/
def Obligations.FrameOfBufferReads : Prop :=
  ∀ (i : Instr) (n : Nat) (s t : State), exec i s = .next t →
    (∃ d ss, i = .readBytes d n ss) ∨ (∃ d r, i = .readRegisterMulti d r n) →
    (∀ d ss, i = .readBytes d n ss → t.inp = { s.inp with dev := some d, b := some (countByte n), ss := some ss }) ∧
      (∀ d r, i = .readRegisterMulti d r n →
        t.inp = { s.inp with dev := some d, a := some r, b := some (countByte n) }) ∧ t.rd = s.rd ∧ CallerKept s t ∧
      ∀ a, (∀ j, j < n → a ≠ s.buf.addr j) → t.mem.read a = s.mem.read a

/-- The frame of `scanBus`, and what its callback does (R22, R23, R93, R98, R149). No input register (the model's reading,
log entry 9), no result. The callback runs for the addresses the scan logs `FOUND` and for no other: a byte of memory
changes only by a store the callback makes for such an address, and holds the last such store, in the order of the scan;
the mark `refused` is set exactly where it issues an operation for such an address. That the callback is data, and that the
scan goes on past such an operation, is the model's choice (log entry 13). -/
def Obligations.FrameOfScanBus : Prop :=
  ∀ s t : State, exec .scanBus s = .next t →
    (∃ es, t.log = s.log ++ es ∧
      (∀ a, (∀ x v, .found x ∈ es → (x, .store a v) ∉ s.cb) → t.mem.read a = s.mem.read a) ∧
      (Memory.wf s.mem → ∀ a, t.mem.read a =
        byteAfter a (s.mem.read a) ((foundAddrs es).flatMap fun x => callbackStores x s.cb)) ∧
      (t.refused = true ↔ s.refused = true ∨ ∃ x w, .found x ∈ es ∧ (x, .issue w) ∈ s.cb)) ∧
    t.inp = s.inp ∧ t.ok = s.ok ∧ t.rd = s.rd ∧ t.cfg = s.cfg ∧ t.ops = s.ops ∧ t.moves = s.moves ∧ t.buf = s.buf ∧
      t.cb = s.cb ∧ t.faulted = s.faulted

/-- R22 and R23, who writes the results: an operation with a boolean result leaves `OK` written, no other changes it, and
`RD` is changed by the top-level reads and `readRegister` only. -/
def Obligations.WhoWritesTheResults : Prop :=
  ∀ (i : Instr) (s t : State), exec i s = .next t →
    (writesOk i = true → Returned t → t.ok ≠ none) ∧ (writesOk i = false → t.ok = s.ok) ∧
    (writesRd i = false → t.rd = s.rd)

/-! ## Memory, invariants, whole-machine rules -/

/-- The caller's memory: a byte read after a store is the byte stored, a store leaves every other address alone and keeps
the canonical form (R47). -/
def Obligations.MemoryReadAfterWrite : Prop :=
  ∀ (m : Memory) (a : Nat) (v : Byte), (Memory.wf m → (m.write a v).read a = v ∧ Memory.wf (m.write a v)) ∧
    ∀ b, b ≠ a → (m.write a v).read b = m.read b

/-- The invariant of the block's state is kept by every step. -/
def Obligations.StepKeepsInvariant : Prop := ∀ s t : State, Inv s → step s = .next t → Inv t

/-- The invariant holds after reset. -/
def Obligations.ResetMeetsInvariant : Prop := Inv State.reset

/-- Every step keeps the bus log one that the admission table of R28 allows, read off the log alone: so no primitive a
composite runs is out of its phase (R29). -/
def Obligations.StepKeepsLegalLog : Prop := ∀ s t : State, LegalLog s → step s = .next t → LegalLog t

/-- R30: events are appended and never removed, and so are the symbols of the wire trace. -/
def Obligations.LogAndWireOnlyGrow : Prop :=
  ∀ s t : State, step s = .next t → s.log <+: t.log ∧ s.wire <+: t.wire

/-- R19: the parameters and the caller's operation list never change during a run. -/
def Obligations.ParametersNeverChange : Prop :=
  ∀ s t : State, step s = .next t → t.cfg = s.cfg ∧ t.ops = s.ops

/-! ## The two backends -/

/-- R108: the two backends answer alike: from states the bus level does not tell apart, a step answers states the bus
level does not tell apart, their bus logs and wire traces with them. -/
def Obligations.BackendsAreEquivalent : Prop :=
  (∀ s t : State, SameBus s t → SameAnswer (step s) (step t)) ∧
    ∀ s t : State, SameBus s t → s.log = t.log ∧ s.wire = t.wire

/-- R9: the backend that is not compiled in is never touched. -/
def Obligations.OtherBackendIsUntouched : Prop :=
  ∀ s t : State, step s = .next t →
    (s.cfg.backend = .hardwareTwi → t.usi = s.usi) ∧ (s.cfg.backend = .usiTwi → t.twi = s.twi)

/-- R113 to R117, general knowledge in the spec and in the model's reading of it (log entries 18 and 19): with HardwareTwi, the status code in `TWSR` after a primitive that returned says its outcome,
and the completion flag `TWINT` is set; a byte read stands in `TWDR`. -/
def Obligations.TwiStatusSaysOutcome : Prop :=
  ∀ (i : Instr) (s t : State), s.cfg.backend = .hardwareTwi → exec i s = .next t → Returned t →
    ((∃ d dir, i = .start d dir ∨ i = .repeatStart d dir) →
      (t.ok = some true ↔ twiStatus t.twi = 0x18#8 ∨ twiStatus t.twi = 0x40#8) ∧ twintSet t.twi = true) ∧
    ((∃ b, i = .writeDevice b) → (t.ok = some true ↔ twiStatus t.twi = 0x28#8) ∧ twintSet t.twi = true) ∧
    (i = .readDeviceWithAck → twiStatus t.twi = 0x50#8 ∧ t.rd = some t.twi.twdr ∧ twintSet t.twi = true) ∧
    (i = .readDeviceWithNak → twiStatus t.twi = 0x58#8 ∧ t.rd = some t.twi.twdr ∧ twintSet t.twi = true) ∧
    (i = .stop → t.twi.twcr &&& twsto = 0#8)

/-- R101, R125, general knowledge in the spec and in the model's reading of it (log entry 20): the USI's transfer loop puts a byte on SDA most significant bit first, ends by its counter's overflow
after eight clocks, returns the responder's bit in the ninth, and reads the byte a responder drives. -/
def Obligations.UsiTransferMovesByte : Prop :=
  ∀ (b : Byte) (k ack : Bool) (u : UsiRegs),
    (u.sdaHigh = true → usiShiftLine released8 (usiSendIssue b u) = msbFirst b) ∧
    usiOverflow (usiShift released8 (usiSendIssue b u)) = true ∧
    (usiSendResult k (usiSendIssue b u)).1 = k ∧
    usiShiftLine (msbFirst b) (usiReadIssue u) = msbFirst b ∧ (usiReadResult b ack (usiReadIssue u)).1 = b

/-! ## Fields, moves, ends of runs, the USI's control register -/

/-- R61 to R63 for every word: which bits each field is, which operation each `OP` names, and which field each operand
is. -/
def Obligations.OperandsAreTheirBits : Prop :=
  ∀ w : Word32,
    ((opField w).toNat = w.toNat / 2 ^ 28 ∧ (ssField w = true ↔ w.toNat / 2 ^ 27 % 2 = 1) ∧
      (rsvField w).toNat = w.toNat / 2 ^ 24 % 8 ∧ (devField w).toNat = w.toNat / 2 ^ 17 % 128 ∧
      (dirField w = .R ↔ w.toNat / 2 ^ 16 % 2 = 1) ∧ (aField w).toNat = w.toNat / 2 ^ 8 % 256 ∧
      (bField w).toNat = w.toNat % 256) ∧
    (∀ d dir, decode w = .ok (.start d dir) → opField w = 0x1#4 ∧ d = devField w ∧ dir = dirField w) ∧
    (∀ d dir, decode w = .ok (.repeatStart d dir) → opField w = 0x2#4 ∧ d = devField w ∧ dir = dirField w) ∧
    (decode w = .ok .stop → opField w = 0x3#4) ∧
    (∀ b, decode w = .ok (.writeDevice b) → opField w = 0x4#4 ∧ b = bField w) ∧
    (decode w = .ok .readDeviceWithAck → opField w = 0x5#4) ∧
    (decode w = .ok .readDeviceWithNak → opField w = 0x6#4) ∧
    (∀ d n ss, decode w = .ok (.writeBytes d n ss) →
      opField w = 0x8#4 ∧ d = devField w ∧ n = (bField w).toNat ∧ ss = ssField w) ∧
    (∀ d n ss, decode w = .ok (.readBytes d n ss) →
      opField w = 0x9#4 ∧ d = devField w ∧ n = (bField w).toNat ∧ ss = ssField w) ∧
    (∀ d r v, decode w = .ok (.writeRegister d r v) →
      opField w = 0xA#4 ∧ d = devField w ∧ r = aField w ∧ v = bField w) ∧
    (∀ d r n, decode w = .ok (.writeRegisterMulti d r n) →
      opField w = 0xB#4 ∧ d = devField w ∧ r = aField w ∧ n = (bField w).toNat) ∧
    (∀ d r, decode w = .ok (.readRegister d r) → opField w = 0xC#4 ∧ d = devField w ∧ r = aField w) ∧
    (∀ d r n, decode w = .ok (.readRegisterMulti d r n) →
      opField w = 0xD#4 ∧ d = devField w ∧ r = aField w ∧ n = (bField w).toNat) ∧
    (decode w = .ok .scanBus → opField w = 0xE#4)

/-- What the caller does between operations (R24, R148), one move a step, before the operation at its place; that the moves
are a list in State is the model's choice (log entry 7). A read takes only the move away, and marks the run where the
register is unwritten; that the machine goes on from such a read is log entry 29 (DEDUCED: R24 and R133 do not say whether it
stops). A store changes only the byte stored. -/
def Obligations.CallerMovesBetweenOperations : Prop :=
  ∀ (s : State) (k : Nat) (m : CallerMove) (ms : List (Nat × CallerMove)), Ready s → s.moves = (k, m) :: ms →
    k ≤ s.opIndex →
    (m = .readOk → step s = .next { s with moves := ms, faulted := s.faulted || s.ok.isNone }) ∧
    (m = .readRd → step s = .next { s with moves := ms, faulted := s.faulted || s.rd.isNone }) ∧
    ∀ a v, m = .store a v → ∃ t, step s = .next t ∧ t = { s with moves := ms, mem := t.mem } ∧
      (Memory.wf s.mem → t.mem.read a = v) ∧ ∀ b, b ≠ a → t.mem.read b = s.mem.read b

/-- R165, R156: where the environment completes every `Wait()` the run may come to (`ENV_COMPLETES`), a run comes, in no more steps than it has
operations and moves left, to the end of its list or to an operation that is refused, never to a hang or a block. The run has
then ended, unless a mark is set. That a step past the list is the fault `runEnded` is the model's choice (log entry 5), and
so are the caller's moves as steps (log entry 7). That the run goes on past a marked state is the model's too: a read of an
unwritten register does not stop the machine (log entry 29), a step does not look at the marks (log entry 6), and a scan goes
on past an operation its callback issues (log entry 13). -/
def Obligations.RunEndsWhenEveryWaitCompletes : Prop :=
  ∀ s : State, Ready s → s.opIndex ≤ s.ops.length → EnvCompletes (waitsLeft s) s →
    ∃ (k : Nat) (t : State), k ≤ s.moves.length + (s.ops.length - s.opIndex) ∧ Sys2Proof.core.run k s = .next t ∧
      ((step t = .fault .runEnded ∧ (RunEnded t ∨ t.refused = true ∨ t.faulted = true)) ∨ ∃ r, step t = .refused r)

/-- R123 and R124, general knowledge in the spec and in the model's reading of it (log entry 20): a write of `USICR` by its
fields. Every bit but the strobe is stored; the strobe toggles the clock pin and, with the software clock source and
`USICLK`, counts an edge, the sixteenth of which sets `USIOIF`; wire mode `0b11` holds SCL low from then on. -/
def Obligations.UsicrWriteByFields : Prop :=
  (∀ (line : Bool) (v : Byte) (u : UsiRegs),
    (writeUsicr line v u).usicr = v &&& 0xFE#8 ∧
    (v.getLsbD 0 = false → writeUsicr line v u = { u with usicr := v }) ∧
    (v.getLsbD 0 = true → (writeUsicr line v u).sclHigh = !u.sclHigh) ∧
    (v.getLsbD 0 = true → v.getLsbD 3 = true ∧ v.getLsbD 2 = false ∧ v.getLsbD 1 = true →
      (writeUsicr line v u).usisr.toNat % 16 = (u.usisr.toNat + 1) % 16 ∧
      (u.usisr.toNat % 16 = 15 → (writeUsicr line v u).usisr.getLsbD 6 = true) ∧
      (u.usisr.toNat % 16 ≠ 15 → (writeUsicr line v u).usisr.toNat / 16 = u.usisr.toNat / 16)) ∧
    (¬(v.getLsbD 3 = true ∧ v.getLsbD 2 = false ∧ v.getLsbD 1 = true) → (writeUsicr line v u).usisr = u.usisr)) ∧
  ∀ u : UsiRegs,
    (u.usicr.getLsbD 5 = true → u.usicr.getLsbD 4 = true → u.usisr.getLsbD 6 = true → masterScl u = false) ∧
    (¬(u.usicr.getLsbD 5 = true ∧ u.usicr.getLsbD 4 = true ∧ u.usisr.getLsbD 6 = true) → masterScl u = u.sclHigh)
end

