-- ==== Sys2Proof/Laws/State.lean ====
section
/-! SUPPORT. One lemma per field per named update of the state, true by rfl. -/

namespace Sys2Proof.Machine


/-! ### `storeByte` -/

@[simp] theorem storeByte_cfg (a : Nat) (v : Byte) (s : State) : (storeByte a v s).cfg = s.cfg := rfl
@[simp] theorem storeByte_ops (a : Nat) (v : Byte) (s : State) : (storeByte a v s).ops = s.ops := rfl
@[simp] theorem storeByte_moves (a : Nat) (v : Byte) (s : State) : (storeByte a v s).moves = s.moves := rfl
@[simp] theorem storeByte_env (a : Nat) (v : Byte) (s : State) : (storeByte a v s).env = s.env := rfl
@[simp] theorem storeByte_inp (a : Nat) (v : Byte) (s : State) : (storeByte a v s).inp = s.inp := rfl
@[simp] theorem storeByte_buf (a : Nat) (v : Byte) (s : State) : (storeByte a v s).buf = s.buf := rfl
@[simp] theorem storeByte_cb (a : Nat) (v : Byte) (s : State) : (storeByte a v s).cb = s.cb := rfl
@[simp] theorem storeByte_ok (a : Nat) (v : Byte) (s : State) : (storeByte a v s).ok = s.ok := rfl
@[simp] theorem storeByte_rd (a : Nat) (v : Byte) (s : State) : (storeByte a v s).rd = s.rd := rfl
@[simp] theorem storeByte_opIndex (a : Nat) (v : Byte) (s : State) : (storeByte a v s).opIndex = s.opIndex := rfl
@[simp] theorem storeByte_phase (a : Nat) (v : Byte) (s : State) : (storeByte a v s).phase = s.phase := rfl
@[simp] theorem storeByte_owned (a : Nat) (v : Byte) (s : State) : (storeByte a v s).owned = s.owned := rfl
@[simp] theorem storeByte_log (a : Nat) (v : Byte) (s : State) : (storeByte a v s).log = s.log := rfl
@[simp] theorem storeByte_wire (a : Nat) (v : Byte) (s : State) : (storeByte a v s).wire = s.wire := rfl
@[simp] theorem storeByte_inOp (a : Nat) (v : Byte) (s : State) : (storeByte a v s).inOp = s.inOp := rfl
@[simp] theorem storeByte_cause (a : Nat) (v : Byte) (s : State) : (storeByte a v s).cause = s.cause := rfl
@[simp] theorem storeByte_hung (a : Nat) (v : Byte) (s : State) : (storeByte a v s).hung = s.hung := rfl
@[simp] theorem storeByte_refused (a : Nat) (v : Byte) (s : State) : (storeByte a v s).refused = s.refused := rfl
@[simp] theorem storeByte_faulted (a : Nat) (v : Byte) (s : State) : (storeByte a v s).faulted = s.faulted := rfl
@[simp] theorem storeByte_mem (a : Nat) (v : Byte) (s : State) : (storeByte a v s).mem = s.mem.write a v := rfl
@[simp] theorem storeByte_twi (a : Nat) (v : Byte) (s : State) : (storeByte a v s).twi = s.twi := rfl
@[simp] theorem storeByte_usi (a : Nat) (v : Byte) (s : State) : (storeByte a v s).usi = s.usi := rfl

/-! ### `setPhase` -/

@[simp] theorem setPhase_cfg (p : Phase) (s : State) : (setPhase p s).cfg = s.cfg := rfl
@[simp] theorem setPhase_ops (p : Phase) (s : State) : (setPhase p s).ops = s.ops := rfl
@[simp] theorem setPhase_moves (p : Phase) (s : State) : (setPhase p s).moves = s.moves := rfl
@[simp] theorem setPhase_env (p : Phase) (s : State) : (setPhase p s).env = s.env := rfl
@[simp] theorem setPhase_inp (p : Phase) (s : State) : (setPhase p s).inp = s.inp := rfl
@[simp] theorem setPhase_buf (p : Phase) (s : State) : (setPhase p s).buf = s.buf := rfl
@[simp] theorem setPhase_cb (p : Phase) (s : State) : (setPhase p s).cb = s.cb := rfl
@[simp] theorem setPhase_ok (p : Phase) (s : State) : (setPhase p s).ok = s.ok := rfl
@[simp] theorem setPhase_rd (p : Phase) (s : State) : (setPhase p s).rd = s.rd := rfl
@[simp] theorem setPhase_opIndex (p : Phase) (s : State) : (setPhase p s).opIndex = s.opIndex := rfl
@[simp] theorem setPhase_phase (p : Phase) (s : State) : (setPhase p s).phase = p := rfl
@[simp] theorem setPhase_owned (p : Phase) (s : State) : (setPhase p s).owned = s.owned := rfl
@[simp] theorem setPhase_log (p : Phase) (s : State) : (setPhase p s).log = s.log := rfl
@[simp] theorem setPhase_wire (p : Phase) (s : State) : (setPhase p s).wire = s.wire := rfl
@[simp] theorem setPhase_inOp (p : Phase) (s : State) : (setPhase p s).inOp = s.inOp := rfl
@[simp] theorem setPhase_cause (p : Phase) (s : State) : (setPhase p s).cause = s.cause := rfl
@[simp] theorem setPhase_hung (p : Phase) (s : State) : (setPhase p s).hung = s.hung := rfl
@[simp] theorem setPhase_refused (p : Phase) (s : State) : (setPhase p s).refused = s.refused := rfl
@[simp] theorem setPhase_faulted (p : Phase) (s : State) : (setPhase p s).faulted = s.faulted := rfl
@[simp] theorem setPhase_mem (p : Phase) (s : State) : (setPhase p s).mem = s.mem := rfl
@[simp] theorem setPhase_twi (p : Phase) (s : State) : (setPhase p s).twi = s.twi := rfl
@[simp] theorem setPhase_usi (p : Phase) (s : State) : (setPhase p s).usi = s.usi := rfl

/-! ### `setOwned` -/

@[simp] theorem setOwned_cfg (o : Bool) (s : State) : (setOwned o s).cfg = s.cfg := rfl
@[simp] theorem setOwned_ops (o : Bool) (s : State) : (setOwned o s).ops = s.ops := rfl
@[simp] theorem setOwned_moves (o : Bool) (s : State) : (setOwned o s).moves = s.moves := rfl
@[simp] theorem setOwned_env (o : Bool) (s : State) : (setOwned o s).env = s.env := rfl
@[simp] theorem setOwned_inp (o : Bool) (s : State) : (setOwned o s).inp = s.inp := rfl
@[simp] theorem setOwned_buf (o : Bool) (s : State) : (setOwned o s).buf = s.buf := rfl
@[simp] theorem setOwned_cb (o : Bool) (s : State) : (setOwned o s).cb = s.cb := rfl
@[simp] theorem setOwned_ok (o : Bool) (s : State) : (setOwned o s).ok = s.ok := rfl
@[simp] theorem setOwned_rd (o : Bool) (s : State) : (setOwned o s).rd = s.rd := rfl
@[simp] theorem setOwned_opIndex (o : Bool) (s : State) : (setOwned o s).opIndex = s.opIndex := rfl
@[simp] theorem setOwned_phase (o : Bool) (s : State) : (setOwned o s).phase = s.phase := rfl
@[simp] theorem setOwned_owned (o : Bool) (s : State) : (setOwned o s).owned = o := rfl
@[simp] theorem setOwned_log (o : Bool) (s : State) : (setOwned o s).log = s.log := rfl
@[simp] theorem setOwned_wire (o : Bool) (s : State) : (setOwned o s).wire = s.wire := rfl
@[simp] theorem setOwned_inOp (o : Bool) (s : State) : (setOwned o s).inOp = s.inOp := rfl
@[simp] theorem setOwned_cause (o : Bool) (s : State) : (setOwned o s).cause = s.cause := rfl
@[simp] theorem setOwned_hung (o : Bool) (s : State) : (setOwned o s).hung = s.hung := rfl
@[simp] theorem setOwned_refused (o : Bool) (s : State) : (setOwned o s).refused = s.refused := rfl
@[simp] theorem setOwned_faulted (o : Bool) (s : State) : (setOwned o s).faulted = s.faulted := rfl
@[simp] theorem setOwned_mem (o : Bool) (s : State) : (setOwned o s).mem = s.mem := rfl
@[simp] theorem setOwned_twi (o : Bool) (s : State) : (setOwned o s).twi = s.twi := rfl
@[simp] theorem setOwned_usi (o : Bool) (s : State) : (setOwned o s).usi = s.usi := rfl

/-! ### `setCause` -/

@[simp] theorem setCause_cfg (c : Cause) (s : State) : (setCause c s).cfg = s.cfg := rfl
@[simp] theorem setCause_ops (c : Cause) (s : State) : (setCause c s).ops = s.ops := rfl
@[simp] theorem setCause_moves (c : Cause) (s : State) : (setCause c s).moves = s.moves := rfl
@[simp] theorem setCause_env (c : Cause) (s : State) : (setCause c s).env = s.env := rfl
@[simp] theorem setCause_inp (c : Cause) (s : State) : (setCause c s).inp = s.inp := rfl
@[simp] theorem setCause_buf (c : Cause) (s : State) : (setCause c s).buf = s.buf := rfl
@[simp] theorem setCause_cb (c : Cause) (s : State) : (setCause c s).cb = s.cb := rfl
@[simp] theorem setCause_ok (c : Cause) (s : State) : (setCause c s).ok = s.ok := rfl
@[simp] theorem setCause_rd (c : Cause) (s : State) : (setCause c s).rd = s.rd := rfl
@[simp] theorem setCause_opIndex (c : Cause) (s : State) : (setCause c s).opIndex = s.opIndex := rfl
@[simp] theorem setCause_phase (c : Cause) (s : State) : (setCause c s).phase = s.phase := rfl
@[simp] theorem setCause_owned (c : Cause) (s : State) : (setCause c s).owned = s.owned := rfl
@[simp] theorem setCause_log (c : Cause) (s : State) : (setCause c s).log = s.log := rfl
@[simp] theorem setCause_wire (c : Cause) (s : State) : (setCause c s).wire = s.wire := rfl
@[simp] theorem setCause_inOp (c : Cause) (s : State) : (setCause c s).inOp = s.inOp := rfl
@[simp] theorem setCause_cause (c : Cause) (s : State) : (setCause c s).cause = c := rfl
@[simp] theorem setCause_hung (c : Cause) (s : State) : (setCause c s).hung = s.hung := rfl
@[simp] theorem setCause_refused (c : Cause) (s : State) : (setCause c s).refused = s.refused := rfl
@[simp] theorem setCause_faulted (c : Cause) (s : State) : (setCause c s).faulted = s.faulted := rfl
@[simp] theorem setCause_mem (c : Cause) (s : State) : (setCause c s).mem = s.mem := rfl
@[simp] theorem setCause_twi (c : Cause) (s : State) : (setCause c s).twi = s.twi := rfl
@[simp] theorem setCause_usi (c : Cause) (s : State) : (setCause c s).usi = s.usi := rfl

/-! ### `setEnv` -/

@[simp] theorem setEnv_cfg (e : Env) (s : State) : (setEnv e s).cfg = s.cfg := rfl
@[simp] theorem setEnv_ops (e : Env) (s : State) : (setEnv e s).ops = s.ops := rfl
@[simp] theorem setEnv_moves (e : Env) (s : State) : (setEnv e s).moves = s.moves := rfl
@[simp] theorem setEnv_env (e : Env) (s : State) : (setEnv e s).env = e := rfl
@[simp] theorem setEnv_inp (e : Env) (s : State) : (setEnv e s).inp = s.inp := rfl
@[simp] theorem setEnv_buf (e : Env) (s : State) : (setEnv e s).buf = s.buf := rfl
@[simp] theorem setEnv_cb (e : Env) (s : State) : (setEnv e s).cb = s.cb := rfl
@[simp] theorem setEnv_ok (e : Env) (s : State) : (setEnv e s).ok = s.ok := rfl
@[simp] theorem setEnv_rd (e : Env) (s : State) : (setEnv e s).rd = s.rd := rfl
@[simp] theorem setEnv_opIndex (e : Env) (s : State) : (setEnv e s).opIndex = s.opIndex := rfl
@[simp] theorem setEnv_phase (e : Env) (s : State) : (setEnv e s).phase = s.phase := rfl
@[simp] theorem setEnv_owned (e : Env) (s : State) : (setEnv e s).owned = s.owned := rfl
@[simp] theorem setEnv_log (e : Env) (s : State) : (setEnv e s).log = s.log := rfl
@[simp] theorem setEnv_wire (e : Env) (s : State) : (setEnv e s).wire = s.wire := rfl
@[simp] theorem setEnv_inOp (e : Env) (s : State) : (setEnv e s).inOp = s.inOp := rfl
@[simp] theorem setEnv_cause (e : Env) (s : State) : (setEnv e s).cause = s.cause := rfl
@[simp] theorem setEnv_hung (e : Env) (s : State) : (setEnv e s).hung = s.hung := rfl
@[simp] theorem setEnv_refused (e : Env) (s : State) : (setEnv e s).refused = s.refused := rfl
@[simp] theorem setEnv_faulted (e : Env) (s : State) : (setEnv e s).faulted = s.faulted := rfl
@[simp] theorem setEnv_mem (e : Env) (s : State) : (setEnv e s).mem = s.mem := rfl
@[simp] theorem setEnv_twi (e : Env) (s : State) : (setEnv e s).twi = s.twi := rfl
@[simp] theorem setEnv_usi (e : Env) (s : State) : (setEnv e s).usi = s.usi := rfl

/-! ### `logEvents` -/

@[simp] theorem logEvents_cfg (es : List Event) (s : State) : (logEvents es s).cfg = s.cfg := rfl
@[simp] theorem logEvents_ops (es : List Event) (s : State) : (logEvents es s).ops = s.ops := rfl
@[simp] theorem logEvents_moves (es : List Event) (s : State) : (logEvents es s).moves = s.moves := rfl
@[simp] theorem logEvents_env (es : List Event) (s : State) : (logEvents es s).env = s.env := rfl
@[simp] theorem logEvents_inp (es : List Event) (s : State) : (logEvents es s).inp = s.inp := rfl
@[simp] theorem logEvents_buf (es : List Event) (s : State) : (logEvents es s).buf = s.buf := rfl
@[simp] theorem logEvents_cb (es : List Event) (s : State) : (logEvents es s).cb = s.cb := rfl
@[simp] theorem logEvents_ok (es : List Event) (s : State) : (logEvents es s).ok = s.ok := rfl
@[simp] theorem logEvents_rd (es : List Event) (s : State) : (logEvents es s).rd = s.rd := rfl
@[simp] theorem logEvents_opIndex (es : List Event) (s : State) : (logEvents es s).opIndex = s.opIndex := rfl
@[simp] theorem logEvents_phase (es : List Event) (s : State) : (logEvents es s).phase = s.phase := rfl
@[simp] theorem logEvents_owned (es : List Event) (s : State) : (logEvents es s).owned = s.owned := rfl
@[simp] theorem logEvents_log (es : List Event) (s : State) : (logEvents es s).log = s.log ++ es := rfl
@[simp] theorem logEvents_wire (es : List Event) (s : State) : (logEvents es s).wire = s.wire := rfl
@[simp] theorem logEvents_inOp (es : List Event) (s : State) : (logEvents es s).inOp = s.inOp := rfl
@[simp] theorem logEvents_cause (es : List Event) (s : State) : (logEvents es s).cause = s.cause := rfl
@[simp] theorem logEvents_hung (es : List Event) (s : State) : (logEvents es s).hung = s.hung := rfl
@[simp] theorem logEvents_refused (es : List Event) (s : State) : (logEvents es s).refused = s.refused := rfl
@[simp] theorem logEvents_faulted (es : List Event) (s : State) : (logEvents es s).faulted = s.faulted := rfl
@[simp] theorem logEvents_mem (es : List Event) (s : State) : (logEvents es s).mem = s.mem := rfl
@[simp] theorem logEvents_twi (es : List Event) (s : State) : (logEvents es s).twi = s.twi := rfl
@[simp] theorem logEvents_usi (es : List Event) (s : State) : (logEvents es s).usi = s.usi := rfl

/-! ### `emit` -/

@[simp] theorem emit_cfg (ws : List WireSym) (s : State) : (emit ws s).cfg = s.cfg := rfl
@[simp] theorem emit_ops (ws : List WireSym) (s : State) : (emit ws s).ops = s.ops := rfl
@[simp] theorem emit_moves (ws : List WireSym) (s : State) : (emit ws s).moves = s.moves := rfl
@[simp] theorem emit_env (ws : List WireSym) (s : State) : (emit ws s).env = s.env := rfl
@[simp] theorem emit_inp (ws : List WireSym) (s : State) : (emit ws s).inp = s.inp := rfl
@[simp] theorem emit_buf (ws : List WireSym) (s : State) : (emit ws s).buf = s.buf := rfl
@[simp] theorem emit_cb (ws : List WireSym) (s : State) : (emit ws s).cb = s.cb := rfl
@[simp] theorem emit_ok (ws : List WireSym) (s : State) : (emit ws s).ok = s.ok := rfl
@[simp] theorem emit_rd (ws : List WireSym) (s : State) : (emit ws s).rd = s.rd := rfl
@[simp] theorem emit_opIndex (ws : List WireSym) (s : State) : (emit ws s).opIndex = s.opIndex := rfl
@[simp] theorem emit_phase (ws : List WireSym) (s : State) : (emit ws s).phase = s.phase := rfl
@[simp] theorem emit_owned (ws : List WireSym) (s : State) : (emit ws s).owned = s.owned := rfl
@[simp] theorem emit_log (ws : List WireSym) (s : State) : (emit ws s).log = s.log := rfl
@[simp] theorem emit_wire (ws : List WireSym) (s : State) : (emit ws s).wire = s.wire ++ ws := rfl
@[simp] theorem emit_inOp (ws : List WireSym) (s : State) : (emit ws s).inOp = s.inOp := rfl
@[simp] theorem emit_cause (ws : List WireSym) (s : State) : (emit ws s).cause = s.cause := rfl
@[simp] theorem emit_hung (ws : List WireSym) (s : State) : (emit ws s).hung = s.hung := rfl
@[simp] theorem emit_refused (ws : List WireSym) (s : State) : (emit ws s).refused = s.refused := rfl
@[simp] theorem emit_faulted (ws : List WireSym) (s : State) : (emit ws s).faulted = s.faulted := rfl
@[simp] theorem emit_mem (ws : List WireSym) (s : State) : (emit ws s).mem = s.mem := rfl
@[simp] theorem emit_twi (ws : List WireSym) (s : State) : (emit ws s).twi = s.twi := rfl
@[simp] theorem emit_usi (ws : List WireSym) (s : State) : (emit ws s).usi = s.usi := rfl

/-! ### `onBackend` -/

@[simp] theorem onBackend_cfg (f : TwiRegs → TwiRegs) (g : UsiRegs → UsiRegs) (s : State) : (onBackend f g s).cfg = s.cfg := rfl
@[simp] theorem onBackend_ops (f : TwiRegs → TwiRegs) (g : UsiRegs → UsiRegs) (s : State) : (onBackend f g s).ops = s.ops := rfl
@[simp] theorem onBackend_moves (f : TwiRegs → TwiRegs) (g : UsiRegs → UsiRegs) (s : State) : (onBackend f g s).moves = s.moves := rfl
@[simp] theorem onBackend_env (f : TwiRegs → TwiRegs) (g : UsiRegs → UsiRegs) (s : State) : (onBackend f g s).env = s.env := rfl
@[simp] theorem onBackend_inp (f : TwiRegs → TwiRegs) (g : UsiRegs → UsiRegs) (s : State) : (onBackend f g s).inp = s.inp := rfl
@[simp] theorem onBackend_buf (f : TwiRegs → TwiRegs) (g : UsiRegs → UsiRegs) (s : State) : (onBackend f g s).buf = s.buf := rfl
@[simp] theorem onBackend_cb (f : TwiRegs → TwiRegs) (g : UsiRegs → UsiRegs) (s : State) : (onBackend f g s).cb = s.cb := rfl
@[simp] theorem onBackend_ok (f : TwiRegs → TwiRegs) (g : UsiRegs → UsiRegs) (s : State) : (onBackend f g s).ok = s.ok := rfl
@[simp] theorem onBackend_rd (f : TwiRegs → TwiRegs) (g : UsiRegs → UsiRegs) (s : State) : (onBackend f g s).rd = s.rd := rfl
@[simp] theorem onBackend_opIndex (f : TwiRegs → TwiRegs) (g : UsiRegs → UsiRegs) (s : State) : (onBackend f g s).opIndex = s.opIndex := rfl
@[simp] theorem onBackend_phase (f : TwiRegs → TwiRegs) (g : UsiRegs → UsiRegs) (s : State) : (onBackend f g s).phase = s.phase := rfl
@[simp] theorem onBackend_owned (f : TwiRegs → TwiRegs) (g : UsiRegs → UsiRegs) (s : State) : (onBackend f g s).owned = s.owned := rfl
@[simp] theorem onBackend_log (f : TwiRegs → TwiRegs) (g : UsiRegs → UsiRegs) (s : State) : (onBackend f g s).log = s.log := rfl
@[simp] theorem onBackend_wire (f : TwiRegs → TwiRegs) (g : UsiRegs → UsiRegs) (s : State) : (onBackend f g s).wire = s.wire := rfl
@[simp] theorem onBackend_inOp (f : TwiRegs → TwiRegs) (g : UsiRegs → UsiRegs) (s : State) : (onBackend f g s).inOp = s.inOp := rfl
@[simp] theorem onBackend_cause (f : TwiRegs → TwiRegs) (g : UsiRegs → UsiRegs) (s : State) : (onBackend f g s).cause = s.cause := rfl
@[simp] theorem onBackend_hung (f : TwiRegs → TwiRegs) (g : UsiRegs → UsiRegs) (s : State) : (onBackend f g s).hung = s.hung := rfl
@[simp] theorem onBackend_refused (f : TwiRegs → TwiRegs) (g : UsiRegs → UsiRegs) (s : State) : (onBackend f g s).refused = s.refused := rfl
@[simp] theorem onBackend_faulted (f : TwiRegs → TwiRegs) (g : UsiRegs → UsiRegs) (s : State) : (onBackend f g s).faulted = s.faulted := rfl
@[simp] theorem onBackend_mem (f : TwiRegs → TwiRegs) (g : UsiRegs → UsiRegs) (s : State) : (onBackend f g s).mem = s.mem := rfl
@[simp] theorem onBackend_twi (f : TwiRegs → TwiRegs) (g : UsiRegs → UsiRegs) (s : State) : (onBackend f g s).twi = if s.cfg.backend = .hardwareTwi then f s.twi else s.twi := rfl
@[simp] theorem onBackend_usi (f : TwiRegs → TwiRegs) (g : UsiRegs → UsiRegs) (s : State) : (onBackend f g s).usi = if s.cfg.backend = .usiTwi then g s.usi else s.usi := rfl

/-! ### `beginOp` -/

@[simp] theorem beginOp_cfg (s : State) : (beginOp s).cfg = s.cfg := rfl
@[simp] theorem beginOp_ops (s : State) : (beginOp s).ops = s.ops := rfl
@[simp] theorem beginOp_moves (s : State) : (beginOp s).moves = s.moves := rfl
@[simp] theorem beginOp_env (s : State) : (beginOp s).env = s.env := rfl
@[simp] theorem beginOp_inp (s : State) : (beginOp s).inp = s.inp := rfl
@[simp] theorem beginOp_buf (s : State) : (beginOp s).buf = s.buf := rfl
@[simp] theorem beginOp_cb (s : State) : (beginOp s).cb = s.cb := rfl
@[simp] theorem beginOp_ok (s : State) : (beginOp s).ok = s.ok := rfl
@[simp] theorem beginOp_rd (s : State) : (beginOp s).rd = s.rd := rfl
@[simp] theorem beginOp_opIndex (s : State) : (beginOp s).opIndex = s.opIndex := rfl
@[simp] theorem beginOp_phase (s : State) : (beginOp s).phase = s.phase := rfl
@[simp] theorem beginOp_owned (s : State) : (beginOp s).owned = s.owned := rfl
@[simp] theorem beginOp_log (s : State) : (beginOp s).log = s.log := rfl
@[simp] theorem beginOp_wire (s : State) : (beginOp s).wire = s.wire := rfl
@[simp] theorem beginOp_inOp (s : State) : (beginOp s).inOp = true := rfl
@[simp] theorem beginOp_cause (s : State) : (beginOp s).cause = s.cause := rfl
@[simp] theorem beginOp_hung (s : State) : (beginOp s).hung = s.hung := rfl
@[simp] theorem beginOp_refused (s : State) : (beginOp s).refused = s.refused := rfl
@[simp] theorem beginOp_faulted (s : State) : (beginOp s).faulted = s.faulted := rfl
@[simp] theorem beginOp_mem (s : State) : (beginOp s).mem = s.mem := rfl
@[simp] theorem beginOp_twi (s : State) : (beginOp s).twi = s.twi := rfl
@[simp] theorem beginOp_usi (s : State) : (beginOp s).usi = s.usi := rfl

/-! ### `endOp` -/

@[simp] theorem endOp_cfg (s : State) : (endOp s).cfg = s.cfg := rfl
@[simp] theorem endOp_ops (s : State) : (endOp s).ops = s.ops := rfl
@[simp] theorem endOp_moves (s : State) : (endOp s).moves = s.moves := rfl
@[simp] theorem endOp_env (s : State) : (endOp s).env = s.env := rfl
@[simp] theorem endOp_inp (s : State) : (endOp s).inp = s.inp := rfl
@[simp] theorem endOp_buf (s : State) : (endOp s).buf = s.buf := rfl
@[simp] theorem endOp_cb (s : State) : (endOp s).cb = s.cb := rfl
@[simp] theorem endOp_ok (s : State) : (endOp s).ok = s.ok := rfl
@[simp] theorem endOp_rd (s : State) : (endOp s).rd = s.rd := rfl
@[simp] theorem endOp_opIndex (s : State) : (endOp s).opIndex = s.opIndex + 1 := rfl
@[simp] theorem endOp_phase (s : State) : (endOp s).phase = s.phase := rfl
@[simp] theorem endOp_owned (s : State) : (endOp s).owned = s.owned := rfl
@[simp] theorem endOp_log (s : State) : (endOp s).log = s.log := rfl
@[simp] theorem endOp_wire (s : State) : (endOp s).wire = s.wire := rfl
@[simp] theorem endOp_inOp (s : State) : (endOp s).inOp = false := rfl
@[simp] theorem endOp_cause (s : State) : (endOp s).cause = s.cause := rfl
@[simp] theorem endOp_hung (s : State) : (endOp s).hung = s.hung := rfl
@[simp] theorem endOp_refused (s : State) : (endOp s).refused = s.refused := rfl
@[simp] theorem endOp_faulted (s : State) : (endOp s).faulted = s.faulted := rfl
@[simp] theorem endOp_mem (s : State) : (endOp s).mem = s.mem := rfl
@[simp] theorem endOp_twi (s : State) : (endOp s).twi = s.twi := rfl
@[simp] theorem endOp_usi (s : State) : (endOp s).usi = s.usi := rfl

/-! ### `issue` -/

@[simp] theorem issue_cfg (c : Command) (s : State) : (issue c s).cfg = s.cfg := rfl
@[simp] theorem issue_ops (c : Command) (s : State) : (issue c s).ops = s.ops := rfl
@[simp] theorem issue_moves (c : Command) (s : State) : (issue c s).moves = s.moves := rfl
@[simp] theorem issue_env (c : Command) (s : State) : (issue c s).env = s.env := rfl
@[simp] theorem issue_inp (c : Command) (s : State) : (issue c s).inp = s.inp := rfl
@[simp] theorem issue_buf (c : Command) (s : State) : (issue c s).buf = c.buf := rfl
@[simp] theorem issue_cb (c : Command) (s : State) : (issue c s).cb = c.cb := rfl
@[simp] theorem issue_ok (c : Command) (s : State) : (issue c s).ok = s.ok := rfl
@[simp] theorem issue_rd (c : Command) (s : State) : (issue c s).rd = s.rd := rfl
@[simp] theorem issue_opIndex (c : Command) (s : State) : (issue c s).opIndex = s.opIndex := rfl
@[simp] theorem issue_phase (c : Command) (s : State) : (issue c s).phase = s.phase := rfl
@[simp] theorem issue_owned (c : Command) (s : State) : (issue c s).owned = s.owned := rfl
@[simp] theorem issue_log (c : Command) (s : State) : (issue c s).log = s.log := rfl
@[simp] theorem issue_wire (c : Command) (s : State) : (issue c s).wire = s.wire := rfl
@[simp] theorem issue_inOp (c : Command) (s : State) : (issue c s).inOp = s.inOp := rfl
@[simp] theorem issue_cause (c : Command) (s : State) : (issue c s).cause = s.cause := rfl
@[simp] theorem issue_hung (c : Command) (s : State) : (issue c s).hung = s.hung := rfl
@[simp] theorem issue_refused (c : Command) (s : State) : (issue c s).refused = s.refused := rfl
@[simp] theorem issue_faulted (c : Command) (s : State) : (issue c s).faulted = s.faulted := rfl
@[simp] theorem issue_mem (c : Command) (s : State) : (issue c s).mem = s.mem := rfl
@[simp] theorem issue_twi (c : Command) (s : State) : (issue c s).twi = s.twi := rfl
@[simp] theorem issue_usi (c : Command) (s : State) : (issue c s).usi = s.usi := rfl

/-! ### `dropMove` -/

@[simp] theorem dropMove_cfg (s : State) : (dropMove s).cfg = s.cfg := rfl
@[simp] theorem dropMove_ops (s : State) : (dropMove s).ops = s.ops := rfl
@[simp] theorem dropMove_moves (s : State) : (dropMove s).moves = s.moves.tail := rfl
@[simp] theorem dropMove_env (s : State) : (dropMove s).env = s.env := rfl
@[simp] theorem dropMove_inp (s : State) : (dropMove s).inp = s.inp := rfl
@[simp] theorem dropMove_buf (s : State) : (dropMove s).buf = s.buf := rfl
@[simp] theorem dropMove_cb (s : State) : (dropMove s).cb = s.cb := rfl
@[simp] theorem dropMove_ok (s : State) : (dropMove s).ok = s.ok := rfl
@[simp] theorem dropMove_rd (s : State) : (dropMove s).rd = s.rd := rfl
@[simp] theorem dropMove_opIndex (s : State) : (dropMove s).opIndex = s.opIndex := rfl
@[simp] theorem dropMove_phase (s : State) : (dropMove s).phase = s.phase := rfl
@[simp] theorem dropMove_owned (s : State) : (dropMove s).owned = s.owned := rfl
@[simp] theorem dropMove_log (s : State) : (dropMove s).log = s.log := rfl
@[simp] theorem dropMove_wire (s : State) : (dropMove s).wire = s.wire := rfl
@[simp] theorem dropMove_inOp (s : State) : (dropMove s).inOp = s.inOp := rfl
@[simp] theorem dropMove_cause (s : State) : (dropMove s).cause = s.cause := rfl
@[simp] theorem dropMove_hung (s : State) : (dropMove s).hung = s.hung := rfl
@[simp] theorem dropMove_refused (s : State) : (dropMove s).refused = s.refused := rfl
@[simp] theorem dropMove_faulted (s : State) : (dropMove s).faulted = s.faulted := rfl
@[simp] theorem dropMove_mem (s : State) : (dropMove s).mem = s.mem := rfl
@[simp] theorem dropMove_twi (s : State) : (dropMove s).twi = s.twi := rfl
@[simp] theorem dropMove_usi (s : State) : (dropMove s).usi = s.usi := rfl

/-! ### `latchDev` -/

@[simp] theorem latchDev_cfg (d : Addr7) (s : State) : (latchDev d s).cfg = s.cfg := rfl
@[simp] theorem latchDev_ops (d : Addr7) (s : State) : (latchDev d s).ops = s.ops := rfl
@[simp] theorem latchDev_moves (d : Addr7) (s : State) : (latchDev d s).moves = s.moves := rfl
@[simp] theorem latchDev_env (d : Addr7) (s : State) : (latchDev d s).env = s.env := rfl
@[simp] theorem latchDev_inp (d : Addr7) (s : State) : (latchDev d s).inp = { s.inp with dev := some d } := rfl
@[simp] theorem latchDev_buf (d : Addr7) (s : State) : (latchDev d s).buf = s.buf := rfl
@[simp] theorem latchDev_cb (d : Addr7) (s : State) : (latchDev d s).cb = s.cb := rfl
@[simp] theorem latchDev_ok (d : Addr7) (s : State) : (latchDev d s).ok = s.ok := rfl
@[simp] theorem latchDev_rd (d : Addr7) (s : State) : (latchDev d s).rd = s.rd := rfl
@[simp] theorem latchDev_opIndex (d : Addr7) (s : State) : (latchDev d s).opIndex = s.opIndex := rfl
@[simp] theorem latchDev_phase (d : Addr7) (s : State) : (latchDev d s).phase = s.phase := rfl
@[simp] theorem latchDev_owned (d : Addr7) (s : State) : (latchDev d s).owned = s.owned := rfl
@[simp] theorem latchDev_log (d : Addr7) (s : State) : (latchDev d s).log = s.log := rfl
@[simp] theorem latchDev_wire (d : Addr7) (s : State) : (latchDev d s).wire = s.wire := rfl
@[simp] theorem latchDev_inOp (d : Addr7) (s : State) : (latchDev d s).inOp = s.inOp := rfl
@[simp] theorem latchDev_cause (d : Addr7) (s : State) : (latchDev d s).cause = s.cause := rfl
@[simp] theorem latchDev_hung (d : Addr7) (s : State) : (latchDev d s).hung = s.hung := rfl
@[simp] theorem latchDev_refused (d : Addr7) (s : State) : (latchDev d s).refused = s.refused := rfl
@[simp] theorem latchDev_faulted (d : Addr7) (s : State) : (latchDev d s).faulted = s.faulted := rfl
@[simp] theorem latchDev_mem (d : Addr7) (s : State) : (latchDev d s).mem = s.mem := rfl
@[simp] theorem latchDev_twi (d : Addr7) (s : State) : (latchDev d s).twi = s.twi := rfl
@[simp] theorem latchDev_usi (d : Addr7) (s : State) : (latchDev d s).usi = s.usi := rfl

/-! ### `latchDir` -/

@[simp] theorem latchDir_cfg (dir : Dir) (s : State) : (latchDir dir s).cfg = s.cfg := rfl
@[simp] theorem latchDir_ops (dir : Dir) (s : State) : (latchDir dir s).ops = s.ops := rfl
@[simp] theorem latchDir_moves (dir : Dir) (s : State) : (latchDir dir s).moves = s.moves := rfl
@[simp] theorem latchDir_env (dir : Dir) (s : State) : (latchDir dir s).env = s.env := rfl
@[simp] theorem latchDir_inp (dir : Dir) (s : State) : (latchDir dir s).inp = { s.inp with dir := some dir } := rfl
@[simp] theorem latchDir_buf (dir : Dir) (s : State) : (latchDir dir s).buf = s.buf := rfl
@[simp] theorem latchDir_cb (dir : Dir) (s : State) : (latchDir dir s).cb = s.cb := rfl
@[simp] theorem latchDir_ok (dir : Dir) (s : State) : (latchDir dir s).ok = s.ok := rfl
@[simp] theorem latchDir_rd (dir : Dir) (s : State) : (latchDir dir s).rd = s.rd := rfl
@[simp] theorem latchDir_opIndex (dir : Dir) (s : State) : (latchDir dir s).opIndex = s.opIndex := rfl
@[simp] theorem latchDir_phase (dir : Dir) (s : State) : (latchDir dir s).phase = s.phase := rfl
@[simp] theorem latchDir_owned (dir : Dir) (s : State) : (latchDir dir s).owned = s.owned := rfl
@[simp] theorem latchDir_log (dir : Dir) (s : State) : (latchDir dir s).log = s.log := rfl
@[simp] theorem latchDir_wire (dir : Dir) (s : State) : (latchDir dir s).wire = s.wire := rfl
@[simp] theorem latchDir_inOp (dir : Dir) (s : State) : (latchDir dir s).inOp = s.inOp := rfl
@[simp] theorem latchDir_cause (dir : Dir) (s : State) : (latchDir dir s).cause = s.cause := rfl
@[simp] theorem latchDir_hung (dir : Dir) (s : State) : (latchDir dir s).hung = s.hung := rfl
@[simp] theorem latchDir_refused (dir : Dir) (s : State) : (latchDir dir s).refused = s.refused := rfl
@[simp] theorem latchDir_faulted (dir : Dir) (s : State) : (latchDir dir s).faulted = s.faulted := rfl
@[simp] theorem latchDir_mem (dir : Dir) (s : State) : (latchDir dir s).mem = s.mem := rfl
@[simp] theorem latchDir_twi (dir : Dir) (s : State) : (latchDir dir s).twi = s.twi := rfl
@[simp] theorem latchDir_usi (dir : Dir) (s : State) : (latchDir dir s).usi = s.usi := rfl

/-! ### `latchA` -/

@[simp] theorem latchA_cfg (r : Byte) (s : State) : (latchA r s).cfg = s.cfg := rfl
@[simp] theorem latchA_ops (r : Byte) (s : State) : (latchA r s).ops = s.ops := rfl
@[simp] theorem latchA_moves (r : Byte) (s : State) : (latchA r s).moves = s.moves := rfl
@[simp] theorem latchA_env (r : Byte) (s : State) : (latchA r s).env = s.env := rfl
@[simp] theorem latchA_inp (r : Byte) (s : State) : (latchA r s).inp = { s.inp with a := some r } := rfl
@[simp] theorem latchA_buf (r : Byte) (s : State) : (latchA r s).buf = s.buf := rfl
@[simp] theorem latchA_cb (r : Byte) (s : State) : (latchA r s).cb = s.cb := rfl
@[simp] theorem latchA_ok (r : Byte) (s : State) : (latchA r s).ok = s.ok := rfl
@[simp] theorem latchA_rd (r : Byte) (s : State) : (latchA r s).rd = s.rd := rfl
@[simp] theorem latchA_opIndex (r : Byte) (s : State) : (latchA r s).opIndex = s.opIndex := rfl
@[simp] theorem latchA_phase (r : Byte) (s : State) : (latchA r s).phase = s.phase := rfl
@[simp] theorem latchA_owned (r : Byte) (s : State) : (latchA r s).owned = s.owned := rfl
@[simp] theorem latchA_log (r : Byte) (s : State) : (latchA r s).log = s.log := rfl
@[simp] theorem latchA_wire (r : Byte) (s : State) : (latchA r s).wire = s.wire := rfl
@[simp] theorem latchA_inOp (r : Byte) (s : State) : (latchA r s).inOp = s.inOp := rfl
@[simp] theorem latchA_cause (r : Byte) (s : State) : (latchA r s).cause = s.cause := rfl
@[simp] theorem latchA_hung (r : Byte) (s : State) : (latchA r s).hung = s.hung := rfl
@[simp] theorem latchA_refused (r : Byte) (s : State) : (latchA r s).refused = s.refused := rfl
@[simp] theorem latchA_faulted (r : Byte) (s : State) : (latchA r s).faulted = s.faulted := rfl
@[simp] theorem latchA_mem (r : Byte) (s : State) : (latchA r s).mem = s.mem := rfl
@[simp] theorem latchA_twi (r : Byte) (s : State) : (latchA r s).twi = s.twi := rfl
@[simp] theorem latchA_usi (r : Byte) (s : State) : (latchA r s).usi = s.usi := rfl

/-! ### `latchB` -/

@[simp] theorem latchB_cfg (b : Byte) (s : State) : (latchB b s).cfg = s.cfg := rfl
@[simp] theorem latchB_ops (b : Byte) (s : State) : (latchB b s).ops = s.ops := rfl
@[simp] theorem latchB_moves (b : Byte) (s : State) : (latchB b s).moves = s.moves := rfl
@[simp] theorem latchB_env (b : Byte) (s : State) : (latchB b s).env = s.env := rfl
@[simp] theorem latchB_inp (b : Byte) (s : State) : (latchB b s).inp = { s.inp with b := some b } := rfl
@[simp] theorem latchB_buf (b : Byte) (s : State) : (latchB b s).buf = s.buf := rfl
@[simp] theorem latchB_cb (b : Byte) (s : State) : (latchB b s).cb = s.cb := rfl
@[simp] theorem latchB_ok (b : Byte) (s : State) : (latchB b s).ok = s.ok := rfl
@[simp] theorem latchB_rd (b : Byte) (s : State) : (latchB b s).rd = s.rd := rfl
@[simp] theorem latchB_opIndex (b : Byte) (s : State) : (latchB b s).opIndex = s.opIndex := rfl
@[simp] theorem latchB_phase (b : Byte) (s : State) : (latchB b s).phase = s.phase := rfl
@[simp] theorem latchB_owned (b : Byte) (s : State) : (latchB b s).owned = s.owned := rfl
@[simp] theorem latchB_log (b : Byte) (s : State) : (latchB b s).log = s.log := rfl
@[simp] theorem latchB_wire (b : Byte) (s : State) : (latchB b s).wire = s.wire := rfl
@[simp] theorem latchB_inOp (b : Byte) (s : State) : (latchB b s).inOp = s.inOp := rfl
@[simp] theorem latchB_cause (b : Byte) (s : State) : (latchB b s).cause = s.cause := rfl
@[simp] theorem latchB_hung (b : Byte) (s : State) : (latchB b s).hung = s.hung := rfl
@[simp] theorem latchB_refused (b : Byte) (s : State) : (latchB b s).refused = s.refused := rfl
@[simp] theorem latchB_faulted (b : Byte) (s : State) : (latchB b s).faulted = s.faulted := rfl
@[simp] theorem latchB_mem (b : Byte) (s : State) : (latchB b s).mem = s.mem := rfl
@[simp] theorem latchB_twi (b : Byte) (s : State) : (latchB b s).twi = s.twi := rfl
@[simp] theorem latchB_usi (b : Byte) (s : State) : (latchB b s).usi = s.usi := rfl

/-! ### `latchSs` -/

@[simp] theorem latchSs_cfg (x : Bool) (s : State) : (latchSs x s).cfg = s.cfg := rfl
@[simp] theorem latchSs_ops (x : Bool) (s : State) : (latchSs x s).ops = s.ops := rfl
@[simp] theorem latchSs_moves (x : Bool) (s : State) : (latchSs x s).moves = s.moves := rfl
@[simp] theorem latchSs_env (x : Bool) (s : State) : (latchSs x s).env = s.env := rfl
@[simp] theorem latchSs_inp (x : Bool) (s : State) : (latchSs x s).inp = { s.inp with ss := some x } := rfl
@[simp] theorem latchSs_buf (x : Bool) (s : State) : (latchSs x s).buf = s.buf := rfl
@[simp] theorem latchSs_cb (x : Bool) (s : State) : (latchSs x s).cb = s.cb := rfl
@[simp] theorem latchSs_ok (x : Bool) (s : State) : (latchSs x s).ok = s.ok := rfl
@[simp] theorem latchSs_rd (x : Bool) (s : State) : (latchSs x s).rd = s.rd := rfl
@[simp] theorem latchSs_opIndex (x : Bool) (s : State) : (latchSs x s).opIndex = s.opIndex := rfl
@[simp] theorem latchSs_phase (x : Bool) (s : State) : (latchSs x s).phase = s.phase := rfl
@[simp] theorem latchSs_owned (x : Bool) (s : State) : (latchSs x s).owned = s.owned := rfl
@[simp] theorem latchSs_log (x : Bool) (s : State) : (latchSs x s).log = s.log := rfl
@[simp] theorem latchSs_wire (x : Bool) (s : State) : (latchSs x s).wire = s.wire := rfl
@[simp] theorem latchSs_inOp (x : Bool) (s : State) : (latchSs x s).inOp = s.inOp := rfl
@[simp] theorem latchSs_cause (x : Bool) (s : State) : (latchSs x s).cause = s.cause := rfl
@[simp] theorem latchSs_hung (x : Bool) (s : State) : (latchSs x s).hung = s.hung := rfl
@[simp] theorem latchSs_refused (x : Bool) (s : State) : (latchSs x s).refused = s.refused := rfl
@[simp] theorem latchSs_faulted (x : Bool) (s : State) : (latchSs x s).faulted = s.faulted := rfl
@[simp] theorem latchSs_mem (x : Bool) (s : State) : (latchSs x s).mem = s.mem := rfl
@[simp] theorem latchSs_twi (x : Bool) (s : State) : (latchSs x s).twi = s.twi := rfl
@[simp] theorem latchSs_usi (x : Bool) (s : State) : (latchSs x s).usi = s.usi := rfl

/-! ### `writeOk` -/

@[simp] theorem writeOk_cfg (b : Bool) (s : State) : (writeOk b s).cfg = s.cfg := rfl
@[simp] theorem writeOk_ops (b : Bool) (s : State) : (writeOk b s).ops = s.ops := rfl
@[simp] theorem writeOk_moves (b : Bool) (s : State) : (writeOk b s).moves = s.moves := rfl
@[simp] theorem writeOk_env (b : Bool) (s : State) : (writeOk b s).env = s.env := rfl
@[simp] theorem writeOk_inp (b : Bool) (s : State) : (writeOk b s).inp = s.inp := rfl
@[simp] theorem writeOk_buf (b : Bool) (s : State) : (writeOk b s).buf = s.buf := rfl
@[simp] theorem writeOk_cb (b : Bool) (s : State) : (writeOk b s).cb = s.cb := rfl
@[simp] theorem writeOk_ok (b : Bool) (s : State) : (writeOk b s).ok = some b := rfl
@[simp] theorem writeOk_rd (b : Bool) (s : State) : (writeOk b s).rd = s.rd := rfl
@[simp] theorem writeOk_opIndex (b : Bool) (s : State) : (writeOk b s).opIndex = s.opIndex := rfl
@[simp] theorem writeOk_phase (b : Bool) (s : State) : (writeOk b s).phase = s.phase := rfl
@[simp] theorem writeOk_owned (b : Bool) (s : State) : (writeOk b s).owned = s.owned := rfl
@[simp] theorem writeOk_log (b : Bool) (s : State) : (writeOk b s).log = s.log := rfl
@[simp] theorem writeOk_wire (b : Bool) (s : State) : (writeOk b s).wire = s.wire := rfl
@[simp] theorem writeOk_inOp (b : Bool) (s : State) : (writeOk b s).inOp = s.inOp := rfl
@[simp] theorem writeOk_cause (b : Bool) (s : State) : (writeOk b s).cause = s.cause := rfl
@[simp] theorem writeOk_hung (b : Bool) (s : State) : (writeOk b s).hung = s.hung := rfl
@[simp] theorem writeOk_refused (b : Bool) (s : State) : (writeOk b s).refused = s.refused := rfl
@[simp] theorem writeOk_faulted (b : Bool) (s : State) : (writeOk b s).faulted = s.faulted := rfl
@[simp] theorem writeOk_mem (b : Bool) (s : State) : (writeOk b s).mem = s.mem := rfl
@[simp] theorem writeOk_twi (b : Bool) (s : State) : (writeOk b s).twi = s.twi := rfl
@[simp] theorem writeOk_usi (b : Bool) (s : State) : (writeOk b s).usi = s.usi := rfl

/-! ### `writeRd` -/

@[simp] theorem writeRd_cfg (v : Byte) (s : State) : (writeRd v s).cfg = s.cfg := rfl
@[simp] theorem writeRd_ops (v : Byte) (s : State) : (writeRd v s).ops = s.ops := rfl
@[simp] theorem writeRd_moves (v : Byte) (s : State) : (writeRd v s).moves = s.moves := rfl
@[simp] theorem writeRd_env (v : Byte) (s : State) : (writeRd v s).env = s.env := rfl
@[simp] theorem writeRd_inp (v : Byte) (s : State) : (writeRd v s).inp = s.inp := rfl
@[simp] theorem writeRd_buf (v : Byte) (s : State) : (writeRd v s).buf = s.buf := rfl
@[simp] theorem writeRd_cb (v : Byte) (s : State) : (writeRd v s).cb = s.cb := rfl
@[simp] theorem writeRd_ok (v : Byte) (s : State) : (writeRd v s).ok = s.ok := rfl
@[simp] theorem writeRd_rd (v : Byte) (s : State) : (writeRd v s).rd = some v := rfl
@[simp] theorem writeRd_opIndex (v : Byte) (s : State) : (writeRd v s).opIndex = s.opIndex := rfl
@[simp] theorem writeRd_phase (v : Byte) (s : State) : (writeRd v s).phase = s.phase := rfl
@[simp] theorem writeRd_owned (v : Byte) (s : State) : (writeRd v s).owned = s.owned := rfl
@[simp] theorem writeRd_log (v : Byte) (s : State) : (writeRd v s).log = s.log := rfl
@[simp] theorem writeRd_wire (v : Byte) (s : State) : (writeRd v s).wire = s.wire := rfl
@[simp] theorem writeRd_inOp (v : Byte) (s : State) : (writeRd v s).inOp = s.inOp := rfl
@[simp] theorem writeRd_cause (v : Byte) (s : State) : (writeRd v s).cause = s.cause := rfl
@[simp] theorem writeRd_hung (v : Byte) (s : State) : (writeRd v s).hung = s.hung := rfl
@[simp] theorem writeRd_refused (v : Byte) (s : State) : (writeRd v s).refused = s.refused := rfl
@[simp] theorem writeRd_faulted (v : Byte) (s : State) : (writeRd v s).faulted = s.faulted := rfl
@[simp] theorem writeRd_mem (v : Byte) (s : State) : (writeRd v s).mem = s.mem := rfl
@[simp] theorem writeRd_twi (v : Byte) (s : State) : (writeRd v s).twi = s.twi := rfl
@[simp] theorem writeRd_usi (v : Byte) (s : State) : (writeRd v s).usi = s.usi := rfl

/-! ### `writeNothing` -/

@[simp] theorem writeNothing_cfg (u : Unit) (s : State) : (writeNothing u s).cfg = s.cfg := rfl
@[simp] theorem writeNothing_ops (u : Unit) (s : State) : (writeNothing u s).ops = s.ops := rfl
@[simp] theorem writeNothing_moves (u : Unit) (s : State) : (writeNothing u s).moves = s.moves := rfl
@[simp] theorem writeNothing_env (u : Unit) (s : State) : (writeNothing u s).env = s.env := rfl
@[simp] theorem writeNothing_inp (u : Unit) (s : State) : (writeNothing u s).inp = s.inp := rfl
@[simp] theorem writeNothing_buf (u : Unit) (s : State) : (writeNothing u s).buf = s.buf := rfl
@[simp] theorem writeNothing_cb (u : Unit) (s : State) : (writeNothing u s).cb = s.cb := rfl
@[simp] theorem writeNothing_ok (u : Unit) (s : State) : (writeNothing u s).ok = s.ok := rfl
@[simp] theorem writeNothing_rd (u : Unit) (s : State) : (writeNothing u s).rd = s.rd := rfl
@[simp] theorem writeNothing_opIndex (u : Unit) (s : State) : (writeNothing u s).opIndex = s.opIndex := rfl
@[simp] theorem writeNothing_phase (u : Unit) (s : State) : (writeNothing u s).phase = s.phase := rfl
@[simp] theorem writeNothing_owned (u : Unit) (s : State) : (writeNothing u s).owned = s.owned := rfl
@[simp] theorem writeNothing_log (u : Unit) (s : State) : (writeNothing u s).log = s.log := rfl
@[simp] theorem writeNothing_wire (u : Unit) (s : State) : (writeNothing u s).wire = s.wire := rfl
@[simp] theorem writeNothing_inOp (u : Unit) (s : State) : (writeNothing u s).inOp = s.inOp := rfl
@[simp] theorem writeNothing_cause (u : Unit) (s : State) : (writeNothing u s).cause = s.cause := rfl
@[simp] theorem writeNothing_hung (u : Unit) (s : State) : (writeNothing u s).hung = s.hung := rfl
@[simp] theorem writeNothing_refused (u : Unit) (s : State) : (writeNothing u s).refused = s.refused := rfl
@[simp] theorem writeNothing_faulted (u : Unit) (s : State) : (writeNothing u s).faulted = s.faulted := rfl
@[simp] theorem writeNothing_mem (u : Unit) (s : State) : (writeNothing u s).mem = s.mem := rfl
@[simp] theorem writeNothing_twi (u : Unit) (s : State) : (writeNothing u s).twi = s.twi := rfl
@[simp] theorem writeNothing_usi (u : Unit) (s : State) : (writeNothing u s).usi = s.usi := rfl

/-! ### `writeOkRd` -/

@[simp] theorem writeOkRd_cfg (v : Option Byte) (s : State) : (writeOkRd v s).cfg = s.cfg := rfl
@[simp] theorem writeOkRd_ops (v : Option Byte) (s : State) : (writeOkRd v s).ops = s.ops := rfl
@[simp] theorem writeOkRd_moves (v : Option Byte) (s : State) : (writeOkRd v s).moves = s.moves := rfl
@[simp] theorem writeOkRd_env (v : Option Byte) (s : State) : (writeOkRd v s).env = s.env := rfl
@[simp] theorem writeOkRd_inp (v : Option Byte) (s : State) : (writeOkRd v s).inp = s.inp := rfl
@[simp] theorem writeOkRd_buf (v : Option Byte) (s : State) : (writeOkRd v s).buf = s.buf := rfl
@[simp] theorem writeOkRd_cb (v : Option Byte) (s : State) : (writeOkRd v s).cb = s.cb := rfl
@[simp] theorem writeOkRd_ok (v : Option Byte) (s : State) : (writeOkRd v s).ok = some v.isSome := rfl
@[simp] theorem writeOkRd_rd (v : Option Byte) (s : State) : (writeOkRd v s).rd = v := rfl
@[simp] theorem writeOkRd_opIndex (v : Option Byte) (s : State) : (writeOkRd v s).opIndex = s.opIndex := rfl
@[simp] theorem writeOkRd_phase (v : Option Byte) (s : State) : (writeOkRd v s).phase = s.phase := rfl
@[simp] theorem writeOkRd_owned (v : Option Byte) (s : State) : (writeOkRd v s).owned = s.owned := rfl
@[simp] theorem writeOkRd_log (v : Option Byte) (s : State) : (writeOkRd v s).log = s.log := rfl
@[simp] theorem writeOkRd_wire (v : Option Byte) (s : State) : (writeOkRd v s).wire = s.wire := rfl
@[simp] theorem writeOkRd_inOp (v : Option Byte) (s : State) : (writeOkRd v s).inOp = s.inOp := rfl
@[simp] theorem writeOkRd_cause (v : Option Byte) (s : State) : (writeOkRd v s).cause = s.cause := rfl
@[simp] theorem writeOkRd_hung (v : Option Byte) (s : State) : (writeOkRd v s).hung = s.hung := rfl
@[simp] theorem writeOkRd_refused (v : Option Byte) (s : State) : (writeOkRd v s).refused = s.refused := rfl
@[simp] theorem writeOkRd_faulted (v : Option Byte) (s : State) : (writeOkRd v s).faulted = s.faulted := rfl
@[simp] theorem writeOkRd_mem (v : Option Byte) (s : State) : (writeOkRd v s).mem = s.mem := rfl
@[simp] theorem writeOkRd_twi (v : Option Byte) (s : State) : (writeOkRd v s).twi = s.twi := rfl
@[simp] theorem writeOkRd_usi (v : Option Byte) (s : State) : (writeOkRd v s).usi = s.usi := rfl

end Sys2Proof.Machine
end

