-- ==== Sys2Proof/Laws/Memory.lean ====
section
/-! SUPPORT. The caller's memory: read after write, and the canonical form. -/

namespace Sys2Proof.Machine

theorem Memory.read_push (a b : Nat) (v : Byte) (m : Memory) :
    (Memory.push a v m).read b = if v = unlisted then m.read b else if b = a then v else m.read b := by
  unfold Memory.push
  split <;> simp [Memory.read, *]

theorem Memory.read_absent {m : Memory} {a : Nat} (h : ∀ c ∈ m, c.1 ≠ a) : m.read a = unlisted := by
  induction m with
  | nil => rfl
  | cons c m ih =>
    have hc : a ≠ c.1 := fun e => h c (by simp) e.symm
    rw [Memory.read, if_neg hc]
    exact ih fun x hx => h x (by simp [hx])

/-- A store leaves every other address alone. -/
theorem Memory.read_write_other (m : Memory) {a b : Nat} (v : Byte) (h : b ≠ a) : (m.write a v).read b = m.read b := by
  induction m with
  | nil => simp [Memory.write, Memory.read_push, h]
  | cons c m ih =>
    obtain ⟨k, w⟩ := c
    unfold Memory.write
    split
    · simp [Memory.read_push, h]
    · split
      · next _ hk => subst hk; simp [Memory.read_push, Memory.read, h]
      · simp [Memory.read, ih]

theorem Memory.wf_cons {k : Nat} {w : Byte} {m : Memory} :
    Memory.wf ((k, w) :: m) ↔ (∀ c ∈ m, k < c.1) ∧ w ≠ unlisted ∧ Memory.wf m := by
  simp only [Memory.wf, List.pairwise_cons, List.forall_mem_cons]
  tauto

/-- A load after a store to the same address gives the byte stored. -/
theorem Memory.read_write_same {m : Memory} (h : Memory.wf m) (a : Nat) (v : Byte) : (m.write a v).read a = v := by
  induction m with
  | nil => by_cases hv : v = unlisted <;> simp [Memory.write, Memory.read_push, Memory.read, hv]
  | cons c m ih =>
    obtain ⟨k, w⟩ := c
    obtain ⟨hk, -, hm⟩ := Memory.wf_cons.1 h
    unfold Memory.write
    split
    · next hlt =>
      have hab : ∀ c ∈ (k, w) :: m, c.1 ≠ a := by
        intro c hc
        rcases List.mem_cons.1 hc with rfl | hc
        · exact Nat.ne_of_gt hlt
        · have := hk c hc
          omega
      by_cases hv : v = unlisted
      · rw [Memory.read_push, if_pos hv, hv]
        exact Memory.read_absent hab
      · simp [Memory.read_push, hv]
    · split
      · next _ hk' =>
        subst hk'
        by_cases hv : v = unlisted
        · rw [Memory.read_push, if_pos hv, hv]
          exact Memory.read_absent fun c hc => Nat.ne_of_gt (hk c hc)
        · simp [Memory.read_push, hv]
      · next hne => rw [Memory.read, if_neg hne]; exact ih hm

theorem Memory.mem_push {a : Nat} {v : Byte} {m : Memory} {c : Host.Cell} (h : c ∈ Memory.push a v m) :
    c = (a, v) ∨ c ∈ m := by
  unfold Memory.push at h
  split at h
  · exact .inr h
  · exact List.mem_cons.1 h

theorem Memory.mem_write {m : Memory} {a : Nat} {v : Byte} {c : Host.Cell} (h : c ∈ m.write a v) :
    c = (a, v) ∨ c ∈ m := by
  induction m with
  | nil => exact Memory.mem_push h
  | cons x m ih =>
    obtain ⟨k, w⟩ := x
    unfold Memory.write at h
    split at h
    · exact Memory.mem_push h
    · split at h
      · exact (Memory.mem_push h).imp_right (List.mem_cons_of_mem _)
      · rcases List.mem_cons.1 h with rfl | h
        · exact .inr (by simp)
        · exact (ih h).imp_right (List.mem_cons_of_mem _)

theorem Memory.push_wf {a : Nat} {v : Byte} {m : Memory} (h : Memory.wf m) (ha : ∀ c ∈ m, a < c.1) :
    Memory.wf (Memory.push a v m) := by
  unfold Memory.push
  split
  · exact h
  · next hv => exact Memory.wf_cons.2 ⟨ha, hv, h⟩

/-- A store keeps the canonical form. -/
theorem Memory.write_wf {m : Memory} (h : Memory.wf m) (a : Nat) (v : Byte) : Memory.wf (m.write a v) := by
  induction m with
  | nil => exact Memory.push_wf h (by simp)
  | cons x m ih =>
    obtain ⟨k, w⟩ := x
    obtain ⟨hk, hw, hm⟩ := Memory.wf_cons.1 h
    unfold Memory.write
    split
    · next hlt =>
      refine Memory.push_wf h ?_
      intro c hc
      rcases List.mem_cons.1 hc with rfl | hc
      · exact hlt
      · exact Nat.lt_trans hlt (hk c hc)
    · split
      · next _ e => subst e; exact Memory.push_wf hm hk
      · next hlt hne =>
        refine Memory.wf_cons.2 ⟨?_, hw, ih hm⟩
        intro c hc
        rcases Memory.mem_write hc with rfl | hc
        · show k < a; omega
        · exact hk c hc

theorem Memory.reset_wf : Memory.wf State.reset.mem := by decide

@[simp] theorem memWrite_eq (buf : BufRef) (i : Nat) (v : Byte) (s : State) :
    memWrite buf i v s = storeByte (buf.addr i) v s := rfl

end Sys2Proof.Machine
end

