-- ==== Sys2Proof/Laws/Run.lean ====
section
/-! SUPPORT. Sequences that may stop in a `Wait()`: how a property of single updates carries to every body, said once
(`Closed`), and what the frame of an operation answers. -/

namespace Sys2Proof.Machine

@[simp] theorem popStartCond_eq (s : State) :
    popStartCond s = setEnv { s.env with startConds := s.env.startConds.tail, draws := s.env.draws + 1 } s := rfl
@[simp] theorem popAck_eq (s : State) :
    popAck s = setEnv { s.env with acks := s.env.acks.tail, draws := s.env.draws + 1 } s := rfl
@[simp] theorem popByte_eq (s : State) :
    popByte s = setEnv { s.env with bytes := s.env.bytes.tail, draws := s.env.draws + 1 } s := rfl
@[simp] theorem popOwnedAfterFail_eq (s : State) :
    popOwnedAfterFail s =
      setEnv { s.env with ownedAfterFails := s.env.ownedAfterFails.tail, draws := s.env.draws + 1 } s := rfl
@[simp] theorem popWhy_eq (s : State) :
    popWhy s = setEnv { s.env with whys := s.env.whys.tail, draws := s.env.draws + 1 } s := rfl
@[simp] theorem popWait_eq (s : State) :
    popWait s = setEnv { s.env with waits := s.env.waits.tail, draws := s.env.draws + 1 } s := rfl

/-- `D` of a body's result and end state, `H` of the state it stays in. -/
def Run.Post {α : Type} (D : α → State → Prop) (H : State → Prop) : Run α → Prop
  | .done a s => D a s
  | .halt s => H s

@[simp] theorem Run.bind_done {α β : Type} (a : α) (s : State) (f : α → State → Run β) :
    (Run.done a s).bind f = f a s := rfl

@[simp] theorem Run.bind_halt {α β : Type} (s : State) (f : α → State → Run β) :
    (Run.halt s : Run α).bind f = .halt s := rfl

@[simp] theorem Run.post_done {α : Type} (D : α → State → Prop) (H : State → Prop) (a : α) (s : State) :
    (Run.done a s).Post D H ↔ D a s := Iff.rfl

@[simp] theorem Run.post_halt {α : Type} (D : α → State → Prop) (H : State → Prop) (s : State) :
    (Run.halt s : Run α).Post D H ↔ H s := Iff.rfl

theorem Run.Post.bind {α β : Type} {r : Run α} {f : α → State → Run β} {D : α → State → Prop} {D' : β → State → Prop}
    {H H' : State → Prop} (h : r.Post D H) (hH : ∀ s, H s → H' s) (hf : ∀ a s, D a s → (f a s).Post D' H') :
    (r.bind f).Post D' H' := by
  cases r with
  | done a s => exact hf a s h
  | halt s => exact hH s h

theorem Run.Post.imp {α : Type} {r : Run α} {D D' : α → State → Prop} {H H' : State → Prop} (h : r.Post D H)
    (hD : ∀ a s, D a s → D' a s) (hH : ∀ s, H s → H' s) : r.Post D' H' := by
  cases r with
  | done a s => exact hD a s h
  | halt s => exact hH s h

/-- The backend steps the primitives' bodies make (R114..R117, R125, R126). -/
inductive BackendStep : (TwiRegs → TwiRegs) → (UsiRegs → UsiRegs) → Prop where
  | startIssue : BackendStep twiStartIssue usiStartIssue
  | startDone (code : Byte) (established : Bool) : BackendStep (twiStepDone code) (usiStartDone established)
  | sendIssue (b : Byte) : BackendStep (twiSendIssue b) (usiSendIssue b)
  | sendDone (code : Byte) (k : Bool) : BackendStep (twiStepDone code) (usiSendDone k)
  | readIssue (ack : Bool) : BackendStep (twiReadIssue ack) usiReadIssue
  | readDone (v : Byte) (ack : Bool) : BackendStep (twiReadDone v ack) (usiReadDone v ack)
  | stopIssue : BackendStep twiStopIssue usiStopIssue
  | stopDone : BackendStep twiStopDone usiStopDone

/-- Relations between a body's first state and the states it may come to: `D` where it returns, `H` where it stays in a
`Wait()`. They hold of every body once they hold of every single update. -/
structure Closed (D H : State → State → Prop) : Prop where
  refl : ∀ s, D s s
  trans : ∀ {s t u}, D s t → D t u → D s u
  stuck : ∀ {s t u}, D s t → H t u → H s u
  phase : ∀ p s, D s (setPhase p s)
  owned : ∀ o s, D s (setOwned o s)
  cause : ∀ c s, D s (setCause c s)
  env : ∀ e s, D s (setEnv e s)
  log : ∀ es s, D s (logEvents es s)
  wire : ∀ ws s, D s (emit ws s)
  backend : ∀ {f g}, BackendStep f g → ∀ s, D s (onBackend f g s)
  gives : ∀ s, waitCompletes s = false → H s (giveUp (popWait s))

/-- The body's end states are related to its first state. -/
abbrev Run.Within {α : Type} (D H : State → State → Prop) (s : State) (r : Run α) : Prop :=
  r.Post (fun _ t => D s t) (H s)

section
variable {D H : State → State → Prop} (C : Closed D H)
include C

/-- Two relations together. -/
theorem Closed.and {D' H' : State → State → Prop} (C' : Closed D' H') :
    Closed (fun s t => D s t ∧ D' s t) (fun s t => H s t ∧ H' s t) where
  refl s := ⟨C.refl s, C'.refl s⟩
  trans h k := ⟨C.trans h.1 k.1, C'.trans h.2 k.2⟩
  stuck h k := ⟨C.stuck h.1 k.1, C'.stuck h.2 k.2⟩
  phase p s := ⟨C.phase p s, C'.phase p s⟩
  owned o s := ⟨C.owned o s, C'.owned o s⟩
  cause c s := ⟨C.cause c s, C'.cause c s⟩
  env e s := ⟨C.env e s, C'.env e s⟩
  log es s := ⟨C.log es s, C'.log es s⟩
  wire ws s := ⟨C.wire ws s, C'.wire ws s⟩
  backend h s := ⟨C.backend h s, C'.backend h s⟩
  gives s h := ⟨C.gives s h, C'.gives s h⟩

theorem Closed.wait (s : State) : (wait s).Within D H s := by
  unfold Sys2Proof.Machine.wait
  split
  · exact C.env _ s
  · next h => exact C.gives s (by simpa using h)

theorem Closed.seq {α β : Type} {s : State} {r : Run α} {f : α → State → Run β} (h : r.Within D H s)
    (hf : ∀ a t, D s t → (f a t).Within D H t) : (r.bind f).Within D H s :=
  Run.Post.bind h (fun _ h => h) fun a t ht => (hf a t ht).imp (fun _ _ h => C.trans ht h) fun _ h => C.stuck ht h

theorem Closed.after {α : Type} {s t : State} {r : Run α} (ht : D s t) (h : r.Within D H t) : r.Within D H s :=
  h.imp (fun _ _ h => C.trans ht h) fun _ h => C.stuck ht h

theorem Closed.startEstablished (s : State) : D s (startEstablished s) :=
  C.trans (C.trans (C.backend (.startDone _ _) s) (C.wire _ _)) (C.owned _ _)

theorem Closed.startFailed (s : State) : D s (startFailed s) :=
  C.trans (C.trans (C.trans (C.trans (C.trans (C.trans (C.trans (C.wire _ s) (C.log _ _)) (C.cause _ _)) (C.phase _ _))
    (C.env _ _)) (C.env _ _)) (C.backend (.startDone _ _) _)) (C.owned _ _)

theorem Closed.ackedStep (code : Bool → Why → Byte) (a : Bool) (s : State) : D s (ackedStep code a s) := by
  unfold Sys2Proof.Machine.ackedStep
  split
  · exact C.backend (.sendDone _ _) s
  · exact C.trans (C.env _ s) (C.backend (.sendDone _ _) _)

theorem Closed.addressDone (d : Addr7) (dir : Dir) (s : State) : (addressDone d dir s).Within D H s := by
  have h : ∀ a, D s (emit (byteM (slaByte d dir) ++ [.T (ackBit a)]) (Sys2Proof.Machine.ackedStep (addressCode dir) a (popAck s))) :=
    fun a => C.trans (C.trans (C.env _ s) (C.ackedStep _ _ _)) (C.wire _ _)
  unfold Sys2Proof.Machine.addressDone
  dsimp only
  split
  · exact C.trans (h _) (C.trans (C.log _ _) (C.trans (C.cause _ _) (C.phase _ _)))
  · exact C.trans (h _) (C.trans (C.log _ _) (C.trans (C.cause _ _) (C.phase _ _)))

theorem Closed.addressPhase (d : Addr7) (dir : Dir) (s : State) : (addressPhase d dir s).Within D H s :=
  C.seq (C.after (C.backend (.sendIssue _) s) (C.wait _)) fun _ t _ => C.addressDone d dir t

theorem Closed.bodyStart (tok : Event) (d : Addr7) (dir : Dir) (s : State) : (bodyStart tok d dir s).Within D H s := by
  refine C.seq (C.after (C.trans (C.log _ s) (C.backend .startIssue _)) (C.wait _)) fun _ t _ => ?_
  split
  · exact C.after (C.trans (C.env _ t) (C.startEstablished _)) (C.addressPhase d dir _)
  · exact C.trans (C.env _ t) (C.startFailed _)

theorem Closed.bodyStop (s : State) : (bodyStop s).Within D H s :=
  C.seq (C.after (C.trans (C.log _ s) (C.backend .stopIssue _)) (C.wait _)) fun _ t _ =>
    C.trans (C.trans (C.backend .stopDone t) (C.wire _ _)) (C.trans (C.phase _ _) (C.owned _ _))

theorem Closed.bodyWriteDevice (b : Byte) (s : State) : (bodyWriteDevice b s).Within D H s :=
  C.seq (C.after (C.trans (C.log _ s) (C.backend (.sendIssue _) _)) (C.wait _)) fun _ t _ =>
    C.trans (C.trans (C.trans (C.env _ t) (C.ackedStep _ _ _)) (C.wire _ _))
      (C.trans (C.log _ _) (C.trans (C.cause _ _) (C.phase _ _)))

theorem Closed.bodyRead (ack : Bool) (s : State) : (bodyRead ack s).Within D H s :=
  C.seq (C.after (C.backend (.readIssue _) s) (C.wait _)) fun _ t _ =>
    C.trans (C.trans (C.trans (C.env _ t) (C.backend (.readDone _ _) _)) (C.wire _ _)) (C.trans (C.log _ _) (C.phase _ _))

theorem Closed.onSuccess {s : State} {r : Run Bool} {f : State → Run Bool} (h : r.Within D H s)
    (hf : ∀ t, D s t → (f t).Within D H t) : (onSuccess r f).Within D H s := by
  refine C.seq h fun a t ht => ?_
  split
  · exact hf t ht
  · exact C.refl t

theorem Closed.writeLoop (cont : Bool) (buf : BufRef) (k i : Nat) (s : State) :
    (writeLoop cont buf k i s).Within D H s := by
  induction k generalizing i s with
  | zero => exact C.refl s
  | succ k ih =>
    refine C.seq (C.bodyWriteDevice _ s) fun a t _ => ?_
    split
    · exact C.seq (ih (i + 1) t) fun _ u _ => C.refl u
    · exact C.refl t

theorem Closed.stopIf (ss : Bool) (s : State) : (stopIf ss s).Within D H s := by
  unfold Sys2Proof.Machine.stopIf
  split
  · exact C.bodyStop s
  · exact C.refl s

theorem Closed.stopThen (a : Bool) (s : State) : (stopThen a s).Within D H s :=
  C.seq (C.bodyStop s) fun _ t _ => C.refl t

theorem Closed.bodyWriteBytes (d : Addr7) (n : Nat) (ss : Bool) (s : State) :
    (bodyWriteBytes d n ss s).Within D H s :=
  C.onSuccess (C.bodyStart _ _ _ s) fun t _ =>
    C.seq (C.writeLoop _ _ _ _ t) fun _ u _ => C.seq (C.stopIf ss u) fun _ v _ => C.refl v

theorem Closed.bodyWriteRegister (d : Addr7) (r v : Byte) (s : State) : (bodyWriteRegister d r v s).Within D H s :=
  C.onSuccess (C.bodyStart _ _ _ s) fun t _ =>
    C.seq (C.onSuccess (C.bodyWriteDevice r t) fun u _ => C.bodyWriteDevice v u) fun a u _ => C.stopThen a u

theorem Closed.bodyWriteRegisterMulti (d : Addr7) (r : Byte) (n : Nat) (s : State) :
    (bodyWriteRegisterMulti d r n s).Within D H s :=
  C.onSuccess (C.bodyStart _ _ _ s) fun t _ =>
    C.seq (C.onSuccess (C.bodyWriteDevice r t) fun u _ => C.writeLoop _ _ _ _ u) fun a u _ => C.stopThen a u

theorem Closed.selectRegister (d : Addr7) (r : Byte) (s : State) : (selectRegister d r s).Within D H s :=
  C.onSuccess (C.onSuccess (C.bodyStart _ _ _ s) fun t _ => C.bodyWriteDevice r t) fun t _ => C.bodyStart _ _ _ t

theorem Closed.bodyReadRegister (d : Addr7) (r : Byte) (s : State) : (bodyReadRegister d r s).Within D H s := by
  refine C.seq (C.selectRegister d r s) fun a t _ => ?_
  split
  · exact C.seq (C.bodyRead false t) fun _ u _ => C.seq (C.bodyStop u) fun _ v _ => C.refl v
  · exact C.refl t

/-- A read sequence: the relation has to hold of the stores into the buffer's bytes too. -/
theorem Closed.readLoop {buf : BufRef} {k i n : Nat} (hn : i + k ≤ n)
    (hst : ∀ j, j < n → ∀ v s, D s (storeByte (buf.addr j) v s)) (s : State) : (readLoop buf k i s).Within D H s := by
  induction k generalizing i s with
  | zero => exact C.refl s
  | succ k ih =>
    refine C.seq (C.bodyRead true s) fun v t _ => ?_
    exact C.after (hst i (by omega) v t) (ih (by omega) _)

theorem Closed.readPhase {buf : BufRef} {n : Nat} (h0 : 0 < n)
    (hst : ∀ j, j < n → ∀ v s, D s (storeByte (buf.addr j) v s)) (s : State) : (readPhase buf n s).Within D H s :=
  C.seq (C.readLoop (n := n) (by omega) hst s) fun _ t _ =>
    C.seq (C.bodyRead false t) fun v u _ => hst (n - 1) (by omega) v u

theorem Closed.bodyReadBytes {n : Nat} {s : State} (h0 : 0 < n)
    (hst : ∀ j, j < n → ∀ v t, D t (storeByte (s.buf.addr j) v t)) (d : Addr7) (ss : Bool) :
    (bodyReadBytes d n ss s).Within D H s :=
  C.onSuccess (C.bodyStart _ _ _ s) fun t _ =>
    C.seq (C.readPhase h0 hst t) fun _ u _ => C.seq (C.stopIf ss u) fun _ v _ => C.refl v

theorem Closed.bodyReadRegisterMulti {n : Nat} {s : State} (h0 : 0 < n)
    (hst : ∀ j, j < n → ∀ v t, D t (storeByte (s.buf.addr j) v t)) (d : Addr7) (r : Byte) :
    (bodyReadRegisterMulti d r n s).Within D H s :=
  C.onSuccess (C.selectRegister d r s) fun t _ => C.seq (C.readPhase h0 hst t) fun _ u _ => C.stopThen true u

theorem Closed.callbackActs {acts : Callback} (hact : ∀ x ∈ acts, ∀ s, D s (callbackAct x.2 s)) (a : Addr7) (s : State) :
    D s (callbackActs a acts s) := by
  induction acts generalizing s with
  | nil => exact C.refl s
  | cons x rest ih =>
    refine C.trans ?_ (ih (fun y hy => hact y (by simp [hy])) _)
    split
    · exact hact x (by simp) s
    · exact C.refl s

/-- A scan: the relation has to keep the callback and to hold of the acts it makes too. -/
theorem Closed.scanLoop {cb : Callback} (hcb : ∀ {s t}, D s t → t.cb = s.cb)
    (hact : ∀ x ∈ cb, ∀ s, D s (callbackAct x.2 s)) (k a : Nat) {s : State} (hs : s.cb = cb) :
    (scanLoop k a s).Within D H s := by
  induction k generalizing a s with
  | zero => exact C.refl s
  | succ k ih =>
    refine C.seq (C.bodyStart _ _ _ s) fun ok t ht => C.seq ?_ fun _ u hu => ih (a + 1) (by rw [hcb hu, hcb ht, hs])
    split
    · refine C.seq (C.bodyRead false t) fun _ u hu => C.seq (C.bodyStop u) fun _ v hv => ?_
      refine C.trans (C.log [.found (BitVec.ofNat 7 a)] v) (C.callbackActs ?_ _ _)
      rw [logEvents_cb, hcb hv, hcb hu, hcb ht, hs]
      exact hact
    · exact C.refl t

theorem Closed.bodyScanBus {s : State} (hcb : ∀ {s t}, D s t → t.cb = s.cb)
    (hact : ∀ x ∈ s.cb, ∀ t, D t (callbackAct x.2 t)) : (bodyScanBus s).Within D H s :=
  C.scanLoop hcb hact 126 1 rfl

end

/-! ## The frame of an operation -/

section
variable {α : Type} {check : Option Refusal} {body : State → Run α} {write : α → State → State} {s t : State}

theorem runOp_hung (h : s.hung = true) : runOp check body write s = .fault .hung := by simp [runOp, h]

theorem runOp_reentrant (h : s.hung = false) (h' : s.inOp = true) : runOp check body write s = .refused .reentrant := by
  simp [runOp, h, h']

theorem runOp_refused {r : Refusal} (h : s.hung = false) (h' : s.inOp = false) (hc : check = some r) :
    runOp check body write s = .refused r := by simp [runOp, h, h', hc]

theorem runOp_next (h : s.hung = false) (h' : s.inOp = false) (hc : check = none) :
    runOp check body write s = .next (complete write (body (beginOp s))) := by simp [runOp, h, h', hc]

/-- An operation answers a next state only through its body, begun with no check against it. -/
theorem runOp_eq_next (h : runOp check body write s = .next t) :
    s.hung = false ∧ s.inOp = false ∧ check = none ∧ t = complete write (body (beginOp s)) := by
  unfold runOp at h
  split at h
  · cases h
  · split at h
    · cases h
    · split at h
      · cases h
      · cases h; simp_all

end

/-- What a body comes to decides the operation's next state. -/
theorem complete_cases {α : Type} {write : α → State → State} {r : Run α} {D : α → State → Prop} {H : State → Prop}
    {P : State → Prop} (h : r.Post D H) (hD : ∀ a s, D a s → P (endOp (write a s))) (hH : ∀ s, H s → P s) :
    P (complete write r) := by
  cases r with
  | done a s => exact hD a s h
  | halt s => exact hH s h

end Sys2Proof.Machine
end

