-- ==== Sys2Proof/Laws/Bodies.lean ====
section
/-! SUPPORT. What each body comes to: what none of them changes (`Kept`), how one that does not return ends (`Stuck`), and,
for given answers of the environment, what each primitive's body answers. -/

namespace Sys2Proof.Machine

/-! ## The wire of a byte, in full -/

theorem byteM_eq (x : Byte) : byteM x = masterByte x := rfl

theorem byteT_eq (x : Byte) : byteT x = targetByte x := rfl

theorem ackBit_eq (acked : Bool) : ackBit acked = ackLevel acked := by cases acked <;> rfl

/-- The address byte on the wire: its bits are the address's, then the direction's (R65). -/
theorem addressWire_eq (owned : Bool) (d : Addr7) (dir : Dir) (acked : Bool) :
    addressWire owned d dir acked = (if owned then .Sr else .S) :: (byteM (slaByte d dir) ++ [WireSym.T (ackBit acked)]) := by
  cases dir <;> simp [addressWire, byteM, msbFirst, slaByte, dirBit, ackBit_eq]

/-! ## What no body changes -/

/-- What a body of primitives leaves alone, memory and callback acts apart. -/
structure Kept (s t : State) : Prop where
  cfg : t.cfg = s.cfg
  ops : t.ops = s.ops
  moves : t.moves = s.moves
  inp : t.inp = s.inp
  buf : t.buf = s.buf
  cb : t.cb = s.cb
  ok : t.ok = s.ok
  rd : t.rd = s.rd
  opIndex : t.opIndex = s.opIndex
  faulted : t.faulted = s.faulted

theorem Kept.refl (s : State) : Kept s s := ⟨rfl, rfl, rfl, rfl, rfl, rfl, rfl, rfl, rfl, rfl⟩

theorem Kept.trans {s t u : State} (h : Kept s t) (k : Kept t u) : Kept s u :=
  ⟨k.cfg.trans h.cfg, k.ops.trans h.ops, k.moves.trans h.moves, k.inp.trans h.inp, k.buf.trans h.buf, k.cb.trans h.cb,
   k.ok.trans h.ok, k.rd.trans h.rd, k.opIndex.trans h.opIndex, k.faulted.trans h.faulted⟩

theorem Kept.storeByte (a : Nat) (v : Byte) (s : State) : Kept s (storeByte a v s) :=
  ⟨rfl, rfl, rfl, rfl, rfl, rfl, rfl, rfl, rfl, rfl⟩

theorem Kept.callbackAct (act : CallbackAct) (s : State) : Kept s (callbackAct act s) := by
  cases act <;> exact ⟨rfl, rfl, rfl, rfl, rfl, rfl, rfl, rfl, rfl, rfl⟩

theorem Kept.giveUp (s : State) : Kept s (giveUp s) := by
  unfold Sys2Proof.Machine.giveUp
  split <;> exact ⟨rfl, rfl, rfl, rfl, rfl, rfl, rfl, rfl, rfl, rfl⟩

/-- A body that returns keeps what `Kept` lists and is still the operation in progress. -/
def Going (s t : State) : Prop := Kept s t ∧ t.inOp = s.inOp ∧ t.hung = s.hung

/-- A body that stays in a `Wait()` keeps what `Kept` lists: under a bound the run hangs, `HANG` logged last; without one
it is still in progress (R34, R135). -/
def Stuck (s t : State) : Prop :=
  Kept s t ∧ ((s.cfg.waitBound = none ∧ t.inOp = s.inOp ∧ t.hung = s.hung) ∨
    (s.cfg.waitBound ≠ none ∧ t.inOp = false ∧ t.hung = true ∧ t.log.getLast? = some .hang))

theorem Stuck.giveUp (s : State) : Stuck s (giveUp s) := by
  refine ⟨Kept.giveUp s, ?_⟩
  unfold Sys2Proof.Machine.giveUp
  cases h : s.cfg.waitBound with
  | none => exact .inl ⟨rfl, rfl, rfl⟩
  | some n => exact .inr ⟨by simp, rfl, rfl, by simp⟩

theorem Going.stuck {s t u : State} (h : Going s t) (k : Stuck t u) : Stuck s u := by
  obtain ⟨hk, hi, hh⟩ := h
  obtain ⟨kk, kd⟩ := k
  rw [hk.cfg, hi, hh] at kd
  exact ⟨hk.trans kk, kd⟩

/-- The ends of every body. -/
theorem closed_ends : Closed Going Stuck where
  refl s := ⟨Kept.refl s, rfl, rfl⟩
  trans h k := ⟨h.1.trans k.1, k.2.1.trans h.2.1, k.2.2.trans h.2.2⟩
  stuck := Going.stuck
  phase _ _ := ⟨⟨rfl, rfl, rfl, rfl, rfl, rfl, rfl, rfl, rfl, rfl⟩, rfl, rfl⟩
  owned _ _ := ⟨⟨rfl, rfl, rfl, rfl, rfl, rfl, rfl, rfl, rfl, rfl⟩, rfl, rfl⟩
  cause _ _ := ⟨⟨rfl, rfl, rfl, rfl, rfl, rfl, rfl, rfl, rfl, rfl⟩, rfl, rfl⟩
  env _ _ := ⟨⟨rfl, rfl, rfl, rfl, rfl, rfl, rfl, rfl, rfl, rfl⟩, rfl, rfl⟩
  log _ _ := ⟨⟨rfl, rfl, rfl, rfl, rfl, rfl, rfl, rfl, rfl, rfl⟩, rfl, rfl⟩
  wire _ _ := ⟨⟨rfl, rfl, rfl, rfl, rfl, rfl, rfl, rfl, rfl, rfl⟩, rfl, rfl⟩
  backend _ _ := ⟨⟨rfl, rfl, rfl, rfl, rfl, rfl, rfl, rfl, rfl, rfl⟩, rfl, rfl⟩
  gives s _ := Going.stuck (s := s) ⟨⟨rfl, rfl, rfl, rfl, rfl, rfl, rfl, rfl, rfl, rfl⟩, rfl, rfl⟩ (t := popWait s) (Stuck.giveUp (popWait s))

theorem Going.storeByte (a : Nat) (v : Byte) (s : State) : Going s (storeByte a v s) := ⟨Kept.storeByte a v s, rfl, rfl⟩

theorem Going.callbackAct (act : CallbackAct) (s : State) : Going s (callbackAct act s) := by
  refine ⟨Kept.callbackAct act s, ?_, ?_⟩ <;> cases act <;> rfl

theorem giveUp_mem (s : State) : (giveUp s).mem = s.mem := by unfold giveUp; split <;> rfl

theorem giveUp_log (s : State) : s.log <+: (giveUp s).log := by
  unfold giveUp
  split
  · exact List.prefix_refl _
  · exact List.prefix_append _ _

theorem giveUp_wire (s : State) : (giveUp s).wire = s.wire := by unfold giveUp; split <;> rfl

theorem giveUp_refused (s : State) : (giveUp s).refused = s.refused := by unfold giveUp; split <;> rfl

/-- No body but a buffer read or a callback changes the caller's memory or the mark `refused`. -/
def SameMem (s t : State) : Prop := t.mem = s.mem ∧ t.refused = s.refused

theorem closed_mem : Closed SameMem SameMem where
  refl _ := ⟨rfl, rfl⟩
  trans h k := ⟨k.1.trans h.1, k.2.trans h.2⟩
  stuck h k := ⟨k.1.trans h.1, k.2.trans h.2⟩
  phase _ _ := ⟨rfl, rfl⟩
  owned _ _ := ⟨rfl, rfl⟩
  cause _ _ := ⟨rfl, rfl⟩
  env _ _ := ⟨rfl, rfl⟩
  log _ _ := ⟨rfl, rfl⟩
  wire _ _ := ⟨rfl, rfl⟩
  backend _ _ := ⟨rfl, rfl⟩
  gives s _ := ⟨giveUp_mem (popWait s), giveUp_refused (popWait s)⟩

/-- The log and the wire trace only grow (R30). -/
def Grows (s t : State) : Prop := s.log <+: t.log ∧ s.wire <+: t.wire

theorem Grows.of_eq {s t : State} (h : t.log = s.log) (h' : t.wire = s.wire) : Grows s t := by simp [Grows, h, h']

theorem closed_grows : Closed Grows Grows where
  refl _ := .of_eq rfl rfl
  trans h k := ⟨h.1.trans k.1, h.2.trans k.2⟩
  stuck h k := ⟨h.1.trans k.1, h.2.trans k.2⟩
  phase _ _ := .of_eq rfl rfl
  owned _ _ := .of_eq rfl rfl
  cause _ _ := .of_eq rfl rfl
  env _ _ := .of_eq rfl rfl
  log _ _ := ⟨List.prefix_append _ _, List.prefix_refl _⟩
  wire _ _ := ⟨List.prefix_refl _, List.prefix_append _ _⟩
  backend _ _ := .of_eq rfl rfl
  gives s _ := ⟨giveUp_log (popWait s), by rw [giveUp_wire]; exact List.prefix_refl _⟩

/-! ## `Wait()` -/

theorem wait_done {s : State} (h : waitCompletes s = true) : wait s = .done () (popWait s) := by simp [wait, h]

theorem wait_halt {s : State} (h : waitCompletes s = false) : wait s = .halt (giveUp (popWait s)) := by simp [wait, h]

/-- A body that stays in its first `Wait()`, or whose rest keeps phase, cause and ownership where it stays, keeps them. -/
theorem wait_bind_halt {α : Type} {x u : State} {f : Unit → State → Run α} (h : (wait x).bind f = .halt u)
    (hf : ∀ y v, f () y = .halt v → v.phase = y.phase ∧ v.cause = y.cause ∧ v.owned = y.owned) :
    u.phase = x.phase ∧ u.cause = x.cause ∧ u.owned = x.owned := by
  unfold wait at h
  split at h
  · exact hf (popWait x) u h
  · simp only [Run.bind_halt] at h
    injection h with h
    subst h
    unfold giveUp
    split <;> simp

theorem addressPhase_halt {d : Addr7} {dir : Dir} {s u : State} (h : addressPhase d dir s = .halt u) :
    u.phase = s.phase ∧ u.cause = s.cause ∧ u.owned = s.owned := by
  refine wait_bind_halt (x := onBackend (twiSendIssue (slaByte d dir)) (usiSendIssue (slaByte d dir)) s)
    (f := fun _ s1 => addressDone d dir s1) h fun y v hz => ?_
  unfold addressDone at hz
  dsimp only at hz
  split at hz <;> cases hz

/-- A start that stays in a `Wait()` leaves phase and cause, and the ownership too or the bus owned: which, says which of
its two waits it was (R77). -/
theorem bodyStart_halt {tok : Event} {d : Addr7} {dir : Dir} {s u : State} (h : bodyStart tok d dir s = .halt u) :
    u.phase = s.phase ∧ u.cause = s.cause ∧ (u.owned = s.owned ∨ u.owned = true) := by
  unfold bodyStart at h
  cases hw : wait (onBackend twiStartIssue usiStartIssue (logEvents [tok] s)) with
  | halt y =>
    rw [hw] at h
    injection h with h
    subst h
    have := wait_bind_halt (x := onBackend twiStartIssue usiStartIssue (logEvents [tok] s))
      (f := fun _ s => Run.done () s) (u := y) (by rw [hw]; rfl) (fun _ _ h => by cases h)
    exact ⟨this.1, this.2.1, .inl this.2.2⟩
  | done a y =>
    rw [hw] at h
    have hy : y = popWait (onBackend twiStartIssue usiStartIssue (logEvents [tok] s)) := by
      unfold wait at hw
      split at hw
      · injection hw with _ h'; exact h'.symm
      · cases hw
    simp only [Run.bind_done] at h
    split at h
    · generalize hz : startEstablished (popStartCond y) = z at h
      have hp : z.phase = s.phase := by subst hz hy; rfl
      have hc : z.cause = s.cause := by subst hz hy; rfl
      have ho : z.owned = true := by subst hz; rfl
      obtain ⟨up, uc, uo⟩ := addressPhase_halt h
      exact ⟨up.trans hp, uc.trans hc, .inr (uo.trans ho)⟩
    · cases h

/-- Waits that complete are the first of the queue, each within the bound. -/
theorem WaitsComplete.cons {k : Nat} {s : State} (h : WaitsComplete (k + 1) s) :
    ∃ w ws, s.env.waits = w :: ws ∧ inBound s.cfg.waitBound w = true ∧
      ∀ t : State, t.cfg = s.cfg → t.env.waits = ws → WaitsComplete k t := by
  obtain ⟨hl, hb⟩ := h
  cases hw : s.env.waits with
  | nil => rw [hw] at hl; simp at hl
  | cons w ws =>
    rw [hw] at hl hb
    refine ⟨w, ws, rfl, hb w (by simp), fun t hc ht => ?_⟩
    rw [WaitsComplete, hc, ht]
    exact ⟨by simpa using hl, fun x hx => hb x (by simp [hx])⟩

theorem waitCompletes_of_queue {s : State} {w : Option Nat} {ws : List (Option Nat)} (hw : s.env.waits = w :: ws)
    (hb : inBound s.cfg.waitBound w = true) : waitCompletes s = true := by
  simpa [waitCompletes, nextWait, hw] using hb

theorem WaitsComplete.mono {j k : Nat} {s : State} (h : WaitsComplete k s) (hj : j ≤ k) : WaitsComplete j s :=
  ⟨hj.trans h.1, fun w hw => h.2 w (List.mem_of_mem_take (i := j) (by rwa [List.take_take, Nat.min_eq_left hj]))⟩

/-! ## The primitives' bodies under given answers -/

/-- What is left of the environment's queues. -/
structure EnvLeft (t : State) (startConds acks : List Bool) (bytes : List Byte) (owned : List Bool)
    (waits : List (Option Nat)) : Prop where
  startConds : t.env.startConds = startConds
  acks : t.env.acks = acks
  bytes : t.env.bytes = bytes
  owned : t.env.ownedAfterFails = owned
  waits : t.env.waits = waits

section
variable {s : State}

theorem bodyStop_done (hw : WaitsComplete 1 s) : ∃ t, bodyStop s = .done () t ∧ t.log = s.log ++ [Event.stop] ∧
    t.wire = s.wire ++ [WireSym.P] ∧ t.phase = .idle ∧ t.owned = false ∧ t.cause = s.cause ∧
    EnvLeft t s.env.startConds s.env.acks s.env.bytes s.env.ownedAfterFails s.env.waits.tail := by
  obtain ⟨w, ws, hq, hb, -⟩ := hw.cons
  rw [bodyStop, wait_done (waitCompletes_of_queue (s := onBackend _ _ (logEvents _ s)) hq hb)]
  exact ⟨_, rfl, by simp, by simp, by simp, by simp, by simp, by constructor <;> simp⟩

section
variable (code : Bool → Why → Byte) (a : Bool) (s : State)

@[simp] theorem ackedStep_log : (ackedStep code a s).log = s.log := by unfold ackedStep; split <;> rfl
@[simp] theorem ackedStep_wire : (ackedStep code a s).wire = s.wire := by unfold ackedStep; split <;> rfl
@[simp] theorem ackedStep_phase : (ackedStep code a s).phase = s.phase := by unfold ackedStep; split <;> rfl
@[simp] theorem ackedStep_owned : (ackedStep code a s).owned = s.owned := by unfold ackedStep; split <;> rfl
@[simp] theorem ackedStep_cause : (ackedStep code a s).cause = s.cause := by unfold ackedStep; split <;> rfl
@[simp] theorem ackedStep_env_startConds : (ackedStep code a s).env.startConds = s.env.startConds := by unfold ackedStep; split <;> rfl
@[simp] theorem ackedStep_env_acks : (ackedStep code a s).env.acks = s.env.acks := by unfold ackedStep; split <;> rfl
@[simp] theorem ackedStep_env_bytes : (ackedStep code a s).env.bytes = s.env.bytes := by unfold ackedStep; split <;> rfl
@[simp] theorem ackedStep_env_ownedAfterFails : (ackedStep code a s).env.ownedAfterFails = s.env.ownedAfterFails := by unfold ackedStep; split <;> rfl
@[simp] theorem ackedStep_env_waits : (ackedStep code a s).env.waits = s.env.waits := by unfold ackedStep; split <;> rfl

end

theorem dataDone_done (b : Byte) {a : Bool} {as : List Bool} (ha : s.env.acks = a :: as) :
    ∃ t, dataDone b s = .done a t ∧ t.log = s.log ++ [if a then Event.ack else .nak] ∧
      t.wire = s.wire ++ byteM b ++ [WireSym.T (ackBit a)] ∧ t.phase = .tx ∧ t.owned = s.owned ∧
      t.cause = (if a then .none else .dataNak) ∧
      EnvLeft t s.env.startConds as s.env.bytes s.env.ownedAfterFails s.env.waits := by
  have hn : nextAck .data b s = a := by simp [nextAck, ha]
  unfold dataDone
  simp only [hn]
  refine ⟨_, rfl, ?_, ?_, ?_, ?_, ?_, ?_⟩
  all_goals first | (simp; done) | (constructor <;> simp [ha])

theorem bodyWriteDevice_done (b : Byte) {a : Bool} {as : List Bool} (ha : s.env.acks = a :: as) (hw : WaitsComplete 1 s) :
    ∃ t, bodyWriteDevice b s = .done a t ∧ t.log = s.log ++ [Event.write b, if a then .ack else .nak] ∧
      t.wire = s.wire ++ byteM b ++ [WireSym.T (ackBit a)] ∧ t.phase = .tx ∧ t.owned = s.owned ∧
      t.cause = (if a then .none else .dataNak) ∧
      EnvLeft t s.env.startConds as s.env.bytes s.env.ownedAfterFails s.env.waits.tail := by
  obtain ⟨w, ws, hq, hb, -⟩ := hw.cons
  rw [bodyWriteDevice, wait_done (waitCompletes_of_queue (s := onBackend _ _ (logEvents _ s)) hq hb), Run.bind_done]
  obtain ⟨t, ht, hl, hwi, hp, ho, hc, he⟩ := dataDone_done b
    (s := popWait (onBackend (twiSendIssue b) (usiSendIssue b) (logEvents [Event.write b] s))) (by simpa using ha)
  refine ⟨t, ht, ?_, ?_, hp, ?_, hc, ?_⟩
  · simpa using hl
  · simpa using hwi
  · simpa using ho
  · simpa using he

theorem bodyRead_done (ack : Bool) {v : Byte} {vs : List Byte} (hv : s.env.bytes = v :: vs) (hw : WaitsComplete 1 s) :
    ∃ t, bodyRead ack s = .done v t ∧ t.log = s.log ++ [Event.read v, if ack then .ack else .nak] ∧
      t.wire = s.wire ++ byteT v ++ [WireSym.M (ackBit ack)] ∧ t.phase = (if ack then .rx else .rxEnd) ∧
      t.owned = s.owned ∧ t.cause = s.cause ∧
      EnvLeft t s.env.startConds s.env.acks vs s.env.ownedAfterFails s.env.waits.tail := by
  obtain ⟨w, ws, hq, hb, -⟩ := hw.cons
  rw [bodyRead, wait_done (waitCompletes_of_queue (s := onBackend _ _ s) hq hb), Run.bind_done]
  have hn : nextByte (popWait (onBackend (twiReadIssue ack) usiReadIssue s)) = v := by simp [nextByte, hv]
  simp only [hn]
  refine ⟨_, rfl, ?_, ?_, ?_, ?_, ?_, ?_⟩
  all_goals first | (simp; done) | (constructor <;> simp [hv])

theorem addressDone_done (d : Addr7) (dir : Dir) {a : Bool} {as : List Bool} (ha : s.env.acks = a :: as) :
    ∃ t, addressDone d dir s = .done a t ∧ t.log = s.log ++ [if a then Event.addrAck else .addrNak] ∧
      t.wire = s.wire ++ byteM (slaByte d dir) ++ [WireSym.T (ackBit a)] ∧
      t.phase = (if a then (match dir with | .W => .tx | .R => .rx) else .addrNak) ∧ t.owned = s.owned ∧
      t.cause = (if a then .none else .addrNak) ∧
      EnvLeft t s.env.startConds as s.env.bytes s.env.ownedAfterFails s.env.waits := by
  have hn : nextAck .address (slaByte d dir) s = a := by simp [nextAck, ha]
  unfold addressDone
  simp only [hn]
  cases a
  all_goals
    refine ⟨_, rfl, ?_, ?_, ?_, ?_, ?_, ?_⟩
    all_goals first | (simp; done) | (constructor <;> simp [ha])

theorem addressPhase_done (d : Addr7) (dir : Dir) {a : Bool} {as : List Bool} (ha : s.env.acks = a :: as)
    (hw : WaitsComplete 1 s) :
    ∃ t, addressPhase d dir s = .done a t ∧ t.log = s.log ++ [if a then Event.addrAck else .addrNak] ∧
      t.wire = s.wire ++ byteM (slaByte d dir) ++ [WireSym.T (ackBit a)] ∧
      t.phase = (if a then (match dir with | .W => .tx | .R => .rx) else .addrNak) ∧ t.owned = s.owned ∧
      t.cause = (if a then .none else .addrNak) ∧
      EnvLeft t s.env.startConds as s.env.bytes s.env.ownedAfterFails s.env.waits.tail := by
  obtain ⟨w, ws, hq, hb, -⟩ := hw.cons
  rw [addressPhase, wait_done (waitCompletes_of_queue (s := onBackend _ _ s) hq hb), Run.bind_done]
  obtain ⟨t, ht, hl, hwi, hp, ho, hc, he⟩ := addressDone_done d dir
    (s := popWait (onBackend (twiSendIssue (slaByte d dir)) (usiSendIssue (slaByte d dir)) s)) (by simpa using ha)
  refine ⟨t, ht, ?_, ?_, hp, ?_, hc, ?_⟩
  · simpa using hl
  · simpa using hwi
  · simpa using ho
  · simpa using he

theorem bodyStart_established (tok : Event) (d : Addr7) (dir : Dir) {cs as : List Bool} {a : Bool}
    (hc : s.env.startConds = true :: cs) (ha : s.env.acks = a :: as) (hw : WaitsComplete 2 s) :
    ∃ t, bodyStart tok d dir s = .done a t ∧ t.log = s.log ++ [tok, if a then .addrAck else .addrNak] ∧
      t.wire = s.wire ++ addressWire s.owned d dir a ∧
      t.phase = (if a then (match dir with | .W => .tx | .R => .rx) else .addrNak) ∧ t.owned = true ∧
      t.cause = (if a then .none else .addrNak) ∧
      EnvLeft t cs as s.env.bytes s.env.ownedAfterFails (s.env.waits.drop 2) := by
  obtain ⟨w, ws, hq, hb, hrest⟩ := hw.cons
  rw [bodyStart, wait_done (waitCompletes_of_queue (s := onBackend _ _ (logEvents _ s)) hq hb), Run.bind_done]
  rw [if_pos (by simp [nextStartCond, hc])]
  generalize hs1 : startEstablished _ = s1
  have hw1 : WaitsComplete 1 s1 := hrest s1 (by subst hs1; rfl) (by subst hs1; simp [startEstablished, hq])
  have ha1 : s1.env.acks = a :: as := by subst hs1; simp [startEstablished, ha]
  obtain ⟨t, ht, hl, hwi, hp, ho, hca, henv⟩ := addressPhase_done d dir ha1 hw1
  refine ⟨t, ht, ?_, ?_, hp, ?_, hca, ?_⟩
  · rw [hl]; subst hs1; simp [startEstablished]
  · rw [hwi]; subst hs1; simp [startEstablished, addressWire_eq]; rfl
  · rw [ho]; subst hs1; simp [startEstablished]
  · constructor
    · rw [henv.startConds]; subst hs1; simp [startEstablished, hc]
    · exact henv.acks
    · rw [henv.bytes]; subst hs1; simp [startEstablished]
    · rw [henv.owned]; subst hs1; simp [startEstablished]
    · rw [henv.waits]; subst hs1; simp [startEstablished, hq]

theorem bodyStart_failed (tok : Event) (d : Addr7) (dir : Dir) {cs : List Bool} (hc : s.env.startConds = false :: cs)
    (hw : WaitsComplete 1 s) :
    ∃ t, bodyStart tok d dir s = .done false t ∧ t.log = s.log ++ [tok, .startFail] ∧
      t.wire = s.wire ++ [WireSym.attempted s.owned] ∧ t.phase = .startFail ∧ t.cause = .startFail ∧
      (∀ o os, s.env.ownedAfterFails = o :: os → t.owned = o) := by
  obtain ⟨w, ws, hq, hb, -⟩ := hw.cons
  rw [bodyStart, wait_done (waitCompletes_of_queue (s := onBackend _ _ (logEvents _ s)) hq hb), Run.bind_done]
  rw [if_neg (by simp [nextStartCond, hc])]
  refine ⟨_, rfl, ?_, ?_, ?_, ?_, fun o os h => ?_⟩
  all_goals simp [startFailed, nextOwnedAfterFail, *]

end

end Sys2Proof.Machine
end

