-- ==== Sys2Proof/Laws/Exec.lean ====
section
/-! SUPPORT. What an operation can do, said once: it begins with its operands latched, runs its body, and ends with its
results written or in a `Wait()`; and what a step can do. -/

namespace Sys2Proof.Machine

/-- The state in which an operation's body begins: in progress, its operands in the input registers. -/
def begun (i : Instr) (s : State) : State :=
  match i with
  | .start d dir => latchDir dir (latchDev d (beginOp s))
  | .repeatStart d dir => latchDir dir (latchDev d (beginOp s))
  | .stop => beginOp s
  | .writeDevice b => latchB b (beginOp s)
  | .readDeviceWithAck => beginOp s
  | .readDeviceWithNak => beginOp s
  | .writeBytes d n ss => latchSs ss (latchB (countByte n) (latchDev d (beginOp s)))
  | .readBytes d n ss => latchSs ss (latchB (countByte n) (latchDev d (beginOp s)))
  | .writeRegister d r v => latchB v (latchA r (latchDev d (beginOp s)))
  | .writeRegisterMulti d r n => latchB (countByte n) (latchA r (latchDev d (beginOp s)))
  | .readRegister d r => latchA r (latchDev d (beginOp s))
  | .readRegisterMulti d r n => latchB (countByte n) (latchA r (latchDev d (beginOp s)))
  | .scanBus => beginOp s

/-- `begun` changes nothing but `inOp` and the input registers. -/
theorem begun_eq (i : Instr) (s : State) : ∃ inp, begun i s = { s with inOp := true, inp := inp } := by
  cases i <;> exact ⟨_, rfl⟩

/-- The results an operation may end with. -/
structure Results (i : Instr) (u t : State) : Prop where
  rest : ∃ ok rd, t = endOp { u with ok := ok, rd := rd }
  okWritten : writesOk i = true → t.ok ≠ none
  okKept : writesOk i = false → t.ok = u.ok
  rdKept : writesRd i = false → t.rd = u.rd

/-- An operation answers a next state in one of two ways: its body returned, and its results are written (R85, R86); or
its body stays in a `Wait()` (R34, R134). -/
def Ends (i : Instr) (D H : State → State → Prop) (s t : State) : Prop :=
  (∃ u, D (begun i s) u ∧ Results i u t) ∨ H (begun i s) t

section
variable {D H : State → State → Prop}

theorem ends_ok {i : Instr} {s : State} {r : Run Bool} (ho : writesOk i = true) (_ : writesRd i = false)
    (h : r.Within D H (begun i s)) : Ends i D H s (complete writeOk r) :=
  complete_cases (P := fun t => Ends i D H s t) h
    (fun a u hu => .inl ⟨u, hu, ⟨_, _, rfl⟩, fun _ => by simp, fun h => by simp [ho] at h, fun _ => rfl⟩) fun _ h => .inr h

theorem ends_rd {i : Instr} {s : State} {r : Run Byte} (ho : writesOk i = false) (hr : writesRd i = true)
    (h : r.Within D H (begun i s)) : Ends i D H s (complete writeRd r) :=
  complete_cases (P := fun t => Ends i D H s t) h
    (fun a u hu => .inl ⟨u, hu, ⟨_, _, rfl⟩, fun h => by simp [ho] at h, fun _ => rfl, fun h => by simp [hr] at h⟩)
    fun _ h => .inr h

theorem ends_nothing {i : Instr} {s : State} {r : Run Unit} (ho : writesOk i = false) (_ : writesRd i = false)
    (h : r.Within D H (begun i s)) : Ends i D H s (complete writeNothing r) :=
  complete_cases (P := fun t => Ends i D H s t) h
    (fun a u hu => .inl ⟨u, hu, ⟨_, _, rfl⟩, fun h => by simp [ho] at h, fun _ => rfl, fun _ => rfl⟩) fun _ h => .inr h

theorem ends_okRd {i : Instr} {s : State} {r : Run (Option Byte)} (ho : writesOk i = true) (hr : writesRd i = true)
    (h : r.Within D H (begun i s)) : Ends i D H s (complete writeOkRd r) :=
  complete_cases (P := fun t => Ends i D H s t) h
    (fun a u hu => .inl ⟨u, hu, ⟨_, _, rfl⟩, fun _ => by simp, fun h => by simp [ho] at h, fun h => by simp [hr] at h⟩)
    fun _ h => .inr h

theorem thenCheck_none {r q : Option Refusal} : thenCheck r q = none ↔ r = none ∧ q = none := by
  cases r <;> simp [thenCheck]

theorem checkComposite_none {s : State} : checkComposite s = none ↔ s.phase ≠ .rx := by
  unfold checkComposite; split <;> simp_all

theorem checkPrimitive_none {k : Primitive} {s : State} : checkPrimitive k s = none ↔ admitted s.phase k = true := by
  unfold checkPrimitive; split <;> simp_all

theorem checkCount_none {n : Nat} : checkCount n = none ↔ 0 < n := by
  unfold checkCount; split <;> simp <;> omega

theorem checkBuffer_none {n : Nat} {s : State} : checkBuffer n s = none ↔ n ≤ s.buf.len := by
  unfold checkBuffer; split <;> simp <;> omega

/-- What an operation that answers a next state can have done. The relations have to hold of the stores a buffer read
makes and of the acts a callback makes. -/
theorem exec_ends (C : Closed D H) {i : Instr} {s t : State}
    (hst : (∃ d ss n, i = .readBytes d n ss) ∨ (∃ d r n, i = .readRegisterMulti d r n) →
      ∀ j, j < bufferNeed i → ∀ v u, D u (storeByte (s.buf.addr j) v u))
    (hcb : i = .scanBus → (∀ {s t}, D s t → t.cb = s.cb) ∧ ∀ x ∈ s.cb, ∀ u, D u (callbackAct x.2 u))
    (h : exec i s = .next t) : s.hung = false ∧ s.inOp = false ∧ Ends i D H s t := by
  cases i <;>
    simp only [exec, execStart, execRepeatStart, execStop, execWriteDevice, execReadDeviceWithAck, execReadDeviceWithNak,
      execWriteBytes, execReadBytes, execWriteRegister, execWriteRegisterMulti, execReadRegister, execReadRegisterMulti,
      execScanBus] at h <;>
    obtain ⟨h1, h2, hc, rfl⟩ := runOp_eq_next h <;> refine ⟨h1, h2, ?_⟩
  case start d dir => exact ends_ok rfl rfl (C.bodyStart _ d dir _)
  case repeatStart d dir => exact ends_ok rfl rfl (C.bodyStart _ d dir _)
  case stop => exact ends_nothing rfl rfl (C.bodyStop _)
  case writeDevice b => exact ends_ok rfl rfl (C.bodyWriteDevice b _)
  case readDeviceWithAck => exact ends_rd rfl rfl (C.bodyRead true _)
  case readDeviceWithNak => exact ends_rd rfl rfl (C.bodyRead false _)
  case writeBytes d n ss => exact ends_ok rfl rfl (C.bodyWriteBytes d n ss _)
  case readBytes d n ss =>
    have h0 := checkCount_none.1 (thenCheck_none.1 (thenCheck_none.1 hc).2).1
    exact ends_ok rfl rfl (C.bodyReadBytes (s := begun (.readBytes d n ss) s) h0 (hst (.inl ⟨d, ss, n, rfl⟩)) d ss)
  case writeRegister d r v => exact ends_ok rfl rfl (C.bodyWriteRegister d r v _)
  case writeRegisterMulti d r n => exact ends_ok rfl rfl (C.bodyWriteRegisterMulti d r n _)
  case readRegister d r => exact ends_okRd rfl rfl (C.bodyReadRegister d r _)
  case readRegisterMulti d r n =>
    have h0 := checkCount_none.1 (thenCheck_none.1 (thenCheck_none.1 hc).2).1
    exact ends_ok rfl rfl
      (C.bodyReadRegisterMulti (s := begun (.readRegisterMulti d r n) s) h0 (hst (.inr ⟨d, r, n, rfl⟩)) d r)
  case scanBus => exact ends_nothing rfl rfl (C.bodyScanBus (hcb rfl).1 (hcb rfl).2)

end

/-- Why an operation is refused before it begins, if it is: the checks of R28, R29, R46, R66 in the order of R137. -/
def refusalOf (i : Instr) (s : State) : Option Refusal :=
  if s.phase ∉ admittingPhases i then some .outOfPhase
  else if readsNoByte i then some .zeroCount
  else if s.buf.len < bufferNeed i then some .shortBuffer
  else none

/-- What an operation's body comes to, with its results written (R85, R86). -/
def ran (i : Instr) (s : State) : State :=
  match i with
  | .start d dir => complete writeOk (bodyStart (.start d dir) d dir (begun (.start d dir) s))
  | .repeatStart d dir => complete writeOk (bodyStart (.rstart d dir) d dir (begun (.repeatStart d dir) s))
  | .stop => complete writeNothing (bodyStop (begun .stop s))
  | .writeDevice b => complete writeOk (bodyWriteDevice b (begun (.writeDevice b) s))
  | .readDeviceWithAck => complete writeRd (bodyRead true (begun .readDeviceWithAck s))
  | .readDeviceWithNak => complete writeRd (bodyRead false (begun .readDeviceWithNak s))
  | .writeBytes d n ss => complete writeOk (bodyWriteBytes d n ss (begun (.writeBytes d n ss) s))
  | .readBytes d n ss => complete writeOk (bodyReadBytes d n ss (begun (.readBytes d n ss) s))
  | .writeRegister d r v => complete writeOk (bodyWriteRegister d r v (begun (.writeRegister d r v) s))
  | .writeRegisterMulti d r n => complete writeOk (bodyWriteRegisterMulti d r n (begun (.writeRegisterMulti d r n) s))
  | .readRegister d r => complete writeOkRd (bodyReadRegister d r (begun (.readRegister d r) s))
  | .readRegisterMulti d r n => complete writeOk (bodyReadRegisterMulti d r n (begun (.readRegisterMulti d r n) s))
  | .scanBus => complete writeNothing (bodyScanBus (begun .scanBus s))

/-- Every operation, in one equation: the hang, the reentrancy, the refusals of `refusalOf`, and then its body. -/
theorem exec_eq (i : Instr) (s : State) :
    exec i s = if s.hung then .fault .hung else if s.inOp then .refused .reentrant
      else match refusalOf i s with
        | some r => .refused r
        | none => .next (ran i s) := by
  cases i <;>
    simp only [exec, execStart, execRepeatStart, execStop, execWriteDevice, execReadDeviceWithAck, execReadDeviceWithNak,
      execWriteBytes, execReadBytes, execWriteRegister, execWriteRegisterMulti, execReadRegister, execReadRegisterMulti,
      execScanBus] <;>
    refine (congrArg (fun c => runOp c _ _ s) (?_ : _ = refusalOf _ s)).trans rfl <;>
    simp only [refusalOf, admittingPhases, readsNoByte, bufferNeed, checkPrimitive, checkComposite, thenCheck, checkCount,
      checkBuffer] <;>
    cases s.phase <;> simp [admitted] <;> grind

/-- A hung state answers every operation with the fault `hung` (R34). -/
theorem exec_hung (i : Instr) {s : State} (h : s.hung = true) : exec i s = .fault .hung := by
  simp [exec_eq, h]

/-- An operation in progress answers every other with the refusal `reentrant` (R31). -/
theorem exec_reentrant (i : Instr) {s : State} (h : s.hung = false) (h' : s.inOp = true) :
    exec i s = .refused .reentrant := by
  simp [exec_eq, h, h']

/-- An operation that may begin is refused where `refusalOf` names a reason. -/
theorem exec_refused {i : Instr} {s : State} {r : Refusal} (h : s.hung = false) (h' : s.inOp = false)
    (hr : refusalOf i s = some r) : exec i s = .refused r := by
  simp [exec_eq, h, h', hr]

/-- An operation that may begin answers a next state where `refusalOf` names no reason. -/
theorem exec_next {i : Instr} {s : State} (h : s.hung = false) (h' : s.inOp = false) (hr : refusalOf i s = none) :
    exec i s = .next (ran i s) := by
  simp [exec_eq, h, h', hr]

/-- `refusalOf` never names `reentrant`, `illegalEncoding` or `notModelled`. -/
theorem refusalOf_cases {i : Instr} {s : State} {r : Refusal} (h : refusalOf i s = some r) :
    r = .outOfPhase ∨ r = .zeroCount ∨ r = .shortBuffer := by
  unfold refusalOf at h
  grind

/-- When nothing stands against an operation that may begin. -/
theorem refusalOf_eq_none {i : Instr} {s : State} :
    refusalOf i s = none ↔ s.phase ∈ admittingPhases i ∧ readsNoByte i = false ∧ bufferNeed i ≤ s.buf.len := by
  unfold refusalOf
  grind

/-- Every phase but `Rx` admits the starts, `stop` and the composites (R28, R29). -/
theorem mem_of_ne_rx {p : Phase} (h : p ≠ .rx) : p ∈ [Phase.idle, .startFail, .addrNak, .tx, .rxEnd] := by
  cases p <;> simp_all

/-- An operation that answers a next state was admitted, and that state is what its body came to. -/
theorem exec_ran {i : Instr} {s t : State} (h : exec i s = .next t) :
    s.hung = false ∧ s.inOp = false ∧ refusalOf i s = none ∧ t = ran i s := by
  rw [exec_eq] at h
  grind

/-- No operation changes the parameters, the caller's list and moves, or the buffer and the callback handed over; the
results, the registers and `opIndex` are as `Results` and `Stuck` say. -/
theorem exec_going {i : Instr} {s t : State} (h : exec i s = .next t) :
    s.hung = false ∧ s.inOp = false ∧ Ends i Going Stuck s t :=
  exec_ends closed_ends (fun _ _ _ _ _ => Going.storeByte _ _ _)
    (fun _ => ⟨fun h => h.1.cb, fun _ _ _ => Going.callbackAct _ _⟩) h

/-- A step answers a next state through a move of the caller or through the operation it decodes. -/
theorem step_next {s t : State} (h : step s = .next t) :
    s.hung = false ∧ s.inOp = false ∧
      ((∃ m, dueMove s = some m ∧ t = performMove m (dropMove s)) ∨
        ∃ c i, dueMove s = none ∧ fetch s = some c ∧ decode c.word = .ok i ∧ exec i (issue c s) = .next t) := by
  unfold step at h
  split at h
  · cases h
  · split at h
    · cases h
    · next h1 h2 =>
      refine ⟨by simpa using h1, by simpa using h2, ?_⟩
      split at h
      · next m hm => exact .inl ⟨m, hm, (Host.Outcome.next.inj h).symm⟩
      · next hm =>
        split at h
        · cases h
        · next c hc =>
          split at h
          · cases h
          · next i hi => exact .inr ⟨c, i, hm, hc, hi, h⟩

/-- A read of `OK` marks the run exactly where `OK` is unwritten, and changes nothing else. -/
theorem performMove_readOk (s : State) : performMove .readOk s = if s.ok = none then { s with faulted := true } else s := by
  show noteRead (readOk s) s = _
  unfold readOk
  split <;> simp [noteRead, raiseModelFault, *]

/-- The same of `RD`. -/
theorem performMove_readRd (s : State) : performMove .readRd s = if s.rd = none then { s with faulted := true } else s := by
  show noteRead (readRd s) s = _
  unfold readRd
  split <;> simp [noteRead, raiseModelFault, *]

/-- A move of the caller changes nothing, sets the mark `faulted`, or stores in the caller's memory. -/
theorem performMove_cases (m : CallerMove) (s : State) :
    performMove m s = s ∨ performMove m s = { s with faulted := true } ∨
      ∃ a v, m = .store a v ∧ performMove m s = storeByte a v s := by
  cases m with
  | readOk => rw [performMove_readOk]; split <;> simp
  | readRd => rw [performMove_readRd]; split <;> simp
  | store a v => exact .inr (.inr ⟨a, v, rfl, rfl⟩)

end Sys2Proof.Machine
end

