-- ==== Sys2Proof/Laws/Completion.lean ====
section
/-! SUPPORT. How many waits a body may come to: where so many complete, queued or not, it returns (R165). -/

namespace Sys2Proof.Machine

theorem WaitsComplete.envCompletes {k : Nat} {s : State} (h : WaitsComplete k s) : EnvCompletes k s :=
  ⟨h.2, fun hl => absurd h.1 (by omega)⟩

theorem EnvCompletes.congr {k : Nat} {s t : State} (h : EnvCompletes k s) (hc : t.cfg = s.cfg)
    (he : t.env.waits = s.env.waits) : EnvCompletes k t := by
  unfold EnvCompletes at *
  rwa [hc, he]

/-- The first of `k + 1` waits completes, and `k` are left. -/
theorem EnvCompletes.wait {k : Nat} {s : State} (h : EnvCompletes (k + 1) s) :
    waitCompletes s = true ∧ EnvCompletes k (popWait s) := by
  obtain ⟨h1, h2⟩ := h
  unfold waitCompletes nextWait EnvCompletes
  cases hw : s.env.waits with
  | nil => exact ⟨h2 (by simp [hw]) _ _, by simp [hw], fun _ => h2 (by simp [hw])⟩
  | cons w ws =>
    rw [hw] at h1 h2
    exact ⟨h1 w (by simp), fun x hx => h1 x (by simp_all), fun hl => h2 (by simpa [hw] using hl)⟩

/-- What the waits of a run depend on, and whether it hangs. -/
structure SameWaits (s t : State) : Prop where
  cfg : t.cfg = s.cfg
  waits : t.env.waits = s.env.waits
  hung : t.hung = s.hung

/-- The body comes to at most `n` waits: where `n` and `k` more complete, it returns, the `k` are left, and the run hangs no
more than before. -/
def Uses {α : Type} (n : Nat) (s : State) (r : Run α) : Prop :=
  ∀ k, EnvCompletes (k + n) s → r.Post (fun _ t => EnvCompletes k t ∧ t.cfg = s.cfg ∧ t.hung = s.hung) fun _ => False

section
variable {α β : Type} {s t : State}

theorem EnvCompletes.mono {j k : Nat} (h : EnvCompletes k s) (hj : j ≤ k) : EnvCompletes j s := by
  refine ⟨fun w hw => h.1 w ?_, fun hl => h.2 (by omega)⟩
  exact List.take_subset_take_left _ hj hw

theorem Uses.done (a : α) : Uses 0 s (.done a s) := fun k h => ⟨by simpa using h, rfl, rfl⟩

theorem Uses.mono {m n : Nat} {r : Run α} (h : Uses m s r) (hm : m ≤ n) : Uses n s r :=
  fun k hk => h k (hk.mono (by omega))

/-- Where the body begins makes no difference to it beyond the parameters, the queued waits and the mark. -/
theorem Uses.from {n : Nat} {r : Run α} (h : Uses n t r) (hs : SameWaits s t) : Uses n s r := fun k hk =>
  (h k (hk.congr hs.cfg hs.waits)).imp (fun _ _ h => ⟨h.1, h.2.1.trans hs.cfg, h.2.2.trans hs.hung⟩) fun _ h => h

/-- Where it ends makes none either. -/
theorem Uses.done_of (a : α) (hs : SameWaits s t) : Uses 0 s (.done a t) := Uses.from (Uses.done a) hs

theorem Uses.bind {m n : Nat} {r : Run α} {f : α → State → Run β} (h : Uses m s r) (hf : ∀ a t, Uses n t (f a t)) :
    Uses (n + m) s (r.bind f) := fun k hk =>
  Run.Post.bind (h (k + n) (by rwa [Nat.add_assoc])) (fun _ h => h) fun a t ht =>
    (hf a t k ht.1).imp (fun _ _ h => ⟨h.1, h.2.1.trans ht.2.1, h.2.2.trans ht.2.2⟩) fun _ h => h

theorem Uses.wait : Uses 1 s (wait s) := by
  intro k hk
  obtain ⟨h, h'⟩ := hk.wait
  rw [Sys2Proof.Machine.wait, if_pos h]
  exact ⟨h', rfl, rfl⟩

/-- A primitive's frame: a wait, and then no more. -/
theorem Uses.waitThen {u : State} {n : Nat} {f : Unit → State → Run α} (hs : SameWaits s u)
    (hf : ∀ a t, Uses n t (f a t)) : Uses (n + 1) s ((Sys2Proof.Machine.wait u).bind f) :=
  Uses.from (Uses.bind Uses.wait hf) hs

@[simp] theorem ackedStep_cfg (code : Bool → Why → Byte) (a : Bool) (s : State) : (ackedStep code a s).cfg = s.cfg := by
  unfold ackedStep; split <;> rfl

@[simp] theorem ackedStep_hung (code : Bool → Why → Byte) (a : Bool) (s : State) : (ackedStep code a s).hung = s.hung := by
  unfold ackedStep; split <;> rfl

theorem Uses.addressPhase (d : Addr7) (dir : Dir) (s : State) : Uses 1 s (addressPhase d dir s) := by
  refine Uses.waitThen (n := 0) ⟨rfl, rfl, rfl⟩ fun _ t => ?_
  unfold addressDone
  dsimp only
  split
  · exact Uses.done_of _ ⟨by simp, by simp, by simp⟩
  · exact Uses.done_of _ ⟨by simp, by simp, by simp⟩

theorem Uses.bodyStart (tok : Event) (d : Addr7) (dir : Dir) (s : State) : Uses 2 s (bodyStart tok d dir s) := by
  refine Uses.waitThen (n := 1) ⟨rfl, rfl, rfl⟩ fun _ t => ?_
  split
  · exact Uses.from (Uses.addressPhase d dir _) ⟨by simp [startEstablished], by simp [startEstablished], by simp [startEstablished]⟩
  · exact (Uses.done_of false ⟨by simp [startFailed], by simp [startFailed], by simp [startFailed]⟩).mono (by omega)

theorem Uses.bodyStop (s : State) : Uses 1 s (bodyStop s) :=
  Uses.waitThen (n := 0) ⟨rfl, rfl, rfl⟩ fun _ _ => Uses.done_of _ ⟨rfl, rfl, rfl⟩

theorem Uses.bodyWriteDevice (b : Byte) (s : State) : Uses 1 s (bodyWriteDevice b s) :=
  Uses.waitThen (n := 0) ⟨rfl, rfl, rfl⟩ fun _ t =>
    Uses.done_of _ ⟨by simp, by simp, by simp⟩

theorem Uses.bodyRead (ack : Bool) (s : State) : Uses 1 s (bodyRead ack s) :=
  Uses.waitThen (n := 0) ⟨rfl, rfl, rfl⟩ fun _ _ => Uses.done_of _ ⟨rfl, rfl, rfl⟩

theorem Uses.onSuccess {m n : Nat} {r : Run Bool} {f : State → Run Bool} (h : Uses m s r) (hf : ∀ t, Uses n t (f t)) :
    Uses (n + m) s (onSuccess r f) := by
  refine Uses.bind h fun a t => ?_
  split
  · exact hf t
  · exact (Uses.done false).mono (by omega)

theorem Uses.writeLoop (cont : Bool) (buf : BufRef) (k i : Nat) (s : State) : Uses k s (writeLoop cont buf k i s) := by
  induction k generalizing i s with
  | zero => exact Uses.done true
  | succ k ih =>
    refine Uses.bind (Uses.bodyWriteDevice _ s) fun a t => ?_
    split
    · exact (Uses.bind (ih (i + 1) t) fun rest u => Uses.done (a && rest)).mono (by omega)
    · exact (Uses.done false).mono (by omega)

theorem Uses.readLoop (buf : BufRef) (k i : Nat) (s : State) : Uses k s (readLoop buf k i s) := by
  induction k generalizing i s with
  | zero => exact Uses.done ()
  | succ k ih => exact Uses.bind (Uses.bodyRead true s) fun v t => Uses.from (ih (i + 1) (memWrite buf i v t)) ⟨rfl, rfl, rfl⟩

/-- A read of `n` bytes comes to `n` waits, or to one where `n` is 0. -/
theorem Uses.readPhase (buf : BufRef) (n : Nat) (s : State) : Uses (n - 1 + 1) s (readPhase buf n s) :=
  (Uses.bind (n := 1) (Uses.readLoop buf (n - 1) 0 s) fun _ t =>
    Uses.bind (n := 0) (Uses.bodyRead false t) fun v u => Uses.done_of (t := memWrite buf (n - 1) v u) () ⟨rfl, rfl, rfl⟩).mono
      (by omega)

theorem Uses.stopIf (ss : Bool) (s : State) : Uses 1 s (stopIf ss s) := by
  unfold Sys2Proof.Machine.stopIf
  split
  · exact Uses.bodyStop s
  · exact (Uses.done ()).mono (by omega)

theorem Uses.stopThen (a : Bool) (s : State) : Uses 1 s (stopThen a s) :=
  Uses.bind (n := 0) (Uses.bodyStop s) fun _ _ => Uses.done a

theorem Uses.bodyWriteBytes (d : Addr7) (n : Nat) (ss : Bool) (s : State) : Uses (n + 3) s (bodyWriteBytes d n ss s) :=
  (Uses.onSuccess (Uses.bodyStart _ _ _ s) fun t =>
    Uses.bind (Uses.writeLoop false s.buf n 0 t) fun _ u => Uses.bind (n := 0) (Uses.stopIf ss u) fun _ _ => Uses.done _).mono
      (by omega)

theorem Uses.bodyReadBytes (d : Addr7) {n : Nat} (h0 : 0 < n) (ss : Bool) (s : State) :
    Uses (n + 3) s (bodyReadBytes d n ss s) :=
  (Uses.onSuccess (Uses.bodyStart _ _ _ s) fun t =>
    Uses.bind (Uses.readPhase s.buf n t) fun _ u => Uses.bind (n := 0) (Uses.stopIf ss u) fun _ _ => Uses.done _).mono
      (by omega)

theorem Uses.bodyWriteRegister (d : Addr7) (r v : Byte) (s : State) : Uses 5 s (bodyWriteRegister d r v s) :=
  (Uses.onSuccess (Uses.bodyStart _ _ _ s) fun t =>
    Uses.bind (Uses.onSuccess (Uses.bodyWriteDevice r t) fun u => Uses.bodyWriteDevice v u) fun a u => Uses.stopThen a u).mono
      (by omega)

theorem Uses.bodyWriteRegisterMulti (d : Addr7) (r : Byte) (n : Nat) (s : State) :
    Uses (n + 4) s (bodyWriteRegisterMulti d r n s) :=
  (Uses.onSuccess (Uses.bodyStart _ _ _ s) fun t =>
    Uses.bind (Uses.onSuccess (Uses.bodyWriteDevice r t) fun u => Uses.writeLoop _ s.buf n 0 u) fun a u =>
      Uses.stopThen a u).mono (by omega)

theorem Uses.selectRegister (d : Addr7) (r : Byte) (s : State) : Uses 5 s (selectRegister d r s) :=
  (Uses.onSuccess (Uses.onSuccess (Uses.bodyStart _ _ _ s) fun t => Uses.bodyWriteDevice r t) fun t =>
    Uses.bodyStart _ _ _ t).mono (by omega)

theorem Uses.bodyReadRegister (d : Addr7) (r : Byte) (s : State) : Uses 7 s (bodyReadRegister d r s) := by
  refine Uses.bind (n := 2) (Uses.selectRegister d r s) fun a t => ?_
  split
  · exact Uses.bind (Uses.bodyRead false t) fun v u => Uses.bind (n := 0) (Uses.bodyStop u) fun _ _ => Uses.done _
  · exact (Uses.done none).mono (by omega)

theorem Uses.bodyReadRegisterMulti (d : Addr7) (r : Byte) {n : Nat} (h0 : 0 < n) (s : State) :
    Uses (n + 6) s (bodyReadRegisterMulti d r n s) :=
  (Uses.onSuccess (Uses.selectRegister d r s) fun t =>
    Uses.bind (Uses.readPhase s.buf n t) fun _ u => Uses.stopThen true u).mono (by omega)

/-- The callback's acts change neither the parameters, nor the queued waits, nor the mark. -/
theorem callbackActs_sameWaits (a : Addr7) (acts : Callback) (s : State) : SameWaits s (callbackActs a acts s) := by
  induction acts generalizing s with
  | nil => exact ⟨rfl, rfl, rfl⟩
  | cons x rest ih =>
    have hx : SameWaits s (if x.1 = a then callbackAct x.2 s else s) := by
      split
      · cases x.2 <;> exact ⟨rfl, rfl, rfl⟩
      · exact ⟨rfl, rfl, rfl⟩
    have h := ih (if x.1 = a then callbackAct x.2 s else s)
    exact ⟨h.cfg.trans hx.cfg, h.waits.trans hx.waits, h.hung.trans hx.hung⟩

theorem Uses.scanFound (a : Addr7) (s : State) : Uses 2 s (scanFound a s) :=
  Uses.bind (n := 1) (Uses.bodyRead false s) fun _ t => Uses.bind (n := 0) (Uses.bodyStop t) fun _ u =>
    have h := callbackActs_sameWaits a (logEvents [.found a] u).cb (logEvents [.found a] u)
    Uses.done_of _ ⟨h.cfg, h.waits, h.hung⟩

theorem Uses.scanLoop (k a : Nat) (s : State) : Uses (4 * k) s (scanLoop k a s) := by
  induction k generalizing a s with
  | zero => exact Uses.done ()
  | succ k ih =>
    refine (Uses.bind (Uses.bodyStart _ _ _ s) fun ok t =>
      Uses.bind (m := 2) ?_ fun _ u => ih (a + 1) u).mono (by omega)
    split
    · exact Uses.scanFound _ t
    · exact (Uses.done ()).mono (by omega)

end

/-- A body that comes to no more waits than complete returns: the operation is over, the rest of the waits is left, and the
run hangs no more than before. -/
theorem Uses.complete {α : Type} {n k : Nat} {s : State} {r : Run α} {write : α → State → State} (h : Uses n s r)
    (hk : EnvCompletes (k + n) s) (hwr : ∀ a t, SameWaits t (write a t)) :
    EnvCompletes k (complete write r) ∧ (complete write r).inOp = false ∧ (complete write r).hung = s.hung := by
  have := h k hk
  cases r with
  | halt t => exact absurd this id
  | done a t => exact ⟨this.1.congr (hwr a t).cfg (hwr a t).waits, rfl, (hwr a t).hung.trans this.2.2⟩

end Sys2Proof.Machine
end

