-- ==== Sys2Proof/Laws/Encoding.lean ====
section
/-! SUPPORT. The fields of a packed word, and each row of R64 said in terms of the fields of R61. -/

namespace Sys2Proof

theorem BitVec.eq_iff_bits {n : Nat} (x y : BitVec n) : x = y ↔ ∀ i, i < n → x.getLsbD i = y.getLsbD i :=
  ⟨fun h _ _ => h ▸ rfl, fun h => BitVec.eq_of_getLsbD_eq h⟩

theorem forall_below_succ (n : Nat) (p : Nat → Prop) : (∀ i, i < n + 1 → p i) ↔ (∀ i, i < n → p i) ∧ p n :=
  Nat.forall_lt_succ_right

theorem dirField_eq_W (w : Word32) : dirField w = .W ↔ w.getLsbD 16 = false := by
  unfold dirField dirOfBit
  cases w.getLsbD 16 <;> simp

/-! ## The fields of a packed word -/

theorem packWord_toNat (op : BitVec 4) (ss : Bool) (d : Addr7) (dir : BitVec 1) (a b : Byte) :
    (packWord op ss d dir a b).toNat =
      op.toNat * 2 ^ 28 + (BitVec.ofBool ss).toNat * 2 ^ 27 + d.toNat * 2 ^ 17 + dir.toNat * 2 ^ 16 + a.toNat * 2 ^ 8 + b.toNat := by
  have join : ∀ {m n : Nat} (x : BitVec m) (y : BitVec n), (x ++ y).toNat = x.toNat * 2 ^ n + y.toNat := by
    intro m n x y
    rw [BitVec.toNat_append, ← Nat.shiftLeft_add_eq_or_of_lt y.isLt, Nat.shiftLeft_eq]
  simp only [packWord, join]
  simp only [BitVec.toNat_zero]
  omega

section
variable (op : BitVec 4) (ss : Bool) (d : Addr7) (dir : BitVec 1) (a b : Byte)

theorem extract_packWord (k n : Nat) : ((packWord op ss d dir a b).extractLsb' k n).toNat =
    (op.toNat * 2 ^ 28 + (BitVec.ofBool ss).toNat * 2 ^ 27 + d.toNat * 2 ^ 17 + dir.toNat * 2 ^ 16 + a.toNat * 2 ^ 8 + b.toNat)
      / 2 ^ k % 2 ^ n := by
  rw [BitVec.extractLsb'_toNat, packWord_toNat, Nat.shiftRight_eq_div_pow]

@[simp] theorem opField_packWord : opField (packWord op ss d dir a b) = op := by
  have h1 := op.isLt; have h2 := (BitVec.ofBool ss).isLt; have h3 := d.isLt; have h4 := dir.isLt; have h5 := a.isLt; have h6 := b.isLt
  apply BitVec.eq_of_toNat_eq
  rw [opField, extract_packWord]
  omega

@[simp] theorem rsvField_packWord : rsvField (packWord op ss d dir a b) = 0#3 := by
  have h1 := op.isLt; have h2 := (BitVec.ofBool ss).isLt; have h3 := d.isLt; have h4 := dir.isLt; have h5 := a.isLt; have h6 := b.isLt
  apply BitVec.eq_of_toNat_eq
  rw [rsvField, extract_packWord]
  simp only [BitVec.toNat_zero]
  omega

@[simp] theorem devField_packWord : devField (packWord op ss d dir a b) = d := by
  have h1 := op.isLt; have h2 := (BitVec.ofBool ss).isLt; have h3 := d.isLt; have h4 := dir.isLt; have h5 := a.isLt; have h6 := b.isLt
  apply BitVec.eq_of_toNat_eq
  rw [devField, extract_packWord]
  omega

@[simp] theorem aField_packWord : aField (packWord op ss d dir a b) = a := by
  have h1 := op.isLt; have h2 := (BitVec.ofBool ss).isLt; have h3 := d.isLt; have h4 := dir.isLt; have h5 := a.isLt; have h6 := b.isLt
  apply BitVec.eq_of_toNat_eq
  rw [aField, extract_packWord]
  omega

@[simp] theorem bField_packWord : bField (packWord op ss d dir a b) = b := by
  have h1 := op.isLt; have h2 := (BitVec.ofBool ss).isLt; have h3 := d.isLt; have h4 := dir.isLt; have h5 := a.isLt; have h6 := b.isLt
  apply BitVec.eq_of_toNat_eq
  rw [bField, extract_packWord]
  omega

theorem bit_packWord (k : Nat) : (packWord op ss d dir a b).getLsbD k = ((packWord op ss d dir a b).extractLsb' k 1 == 1#1) := by
  have h : (packWord op ss d dir a b).extractLsb' k 1 = BitVec.ofBool ((packWord op ss d dir a b).getLsbD k) := by
    rw [BitVec.eq_iff_bits]
    intro i hi
    obtain rfl : i = 0 := by omega
    simp
  rw [h]
  cases (packWord op ss d dir a b).getLsbD k <;> rfl

@[simp] theorem ssField_packWord : ssField (packWord op ss d dir a b) = ss := by
  have h1 := op.isLt; have h3 := d.isLt; have h4 := dir.isLt; have h5 := a.isLt; have h6 := b.isLt
  have h : (packWord op ss d dir a b).extractLsb' 27 1 = BitVec.ofBool ss := by
    apply BitVec.eq_of_toNat_eq
    rw [extract_packWord]
    cases ss <;> simp only [BitVec.ofBool, cond] <;> omega
  rw [ssField, bit_packWord, h]
  cases ss <;> rfl

@[simp] theorem dirField_packWord (x : Dir) : dirField (packWord op ss d (dirBit x) a b) = x := by
  have h1 := op.isLt; have h3 := d.isLt; have h4 := (dirBit x).isLt; have h5 := a.isLt; have h6 := b.isLt
  have h : (packWord op ss d (dirBit x) a b).extractLsb' 16 1 = dirBit x := by
    apply BitVec.eq_of_toNat_eq
    rw [extract_packWord]
    cases ss <;> simp only [BitVec.ofBool, cond] <;> omega
  rw [dirField, bit_packWord, h]
  cases x <;> rfl

end

@[simp] theorem dirField_packWord_zero (op : BitVec 4) (ss : Bool) (d : Addr7) (a b : Byte) :
    dirField (packWord op ss d 0#1 a b) = .W := dirField_packWord op ss d a b .W

theorem countByte_toNat {n : Nat} (h : countFits n = true) : (countByte n).toNat = n := by
  have h' : n < 256 := by simpa [countFits] using h
  simp [countByte, Nat.mod_eq_of_lt h']

/-! ## The rows of R64 in terms of the fields -/

theorem rowStart_selects (w : Word32) : rowStart.selects w = true ↔
    opField w = 0x1#4 ∧ ssField w = false ∧ rsvField w = 0#3 ∧ aField w = 0#8 ∧ bField w = 0#8 := by
  simp only [Row.selects, rowStart, beq_iff_eq, BitVec.eq_iff_bits, opField, ssField, rsvField, aField, bField, forall_below_succ]
  simp [BitVec.getLsbD_extractLsb', -BitVec.getLsbD_eq_getElem]
  tauto

theorem rowRepeatStart_selects (w : Word32) : rowRepeatStart.selects w = true ↔
    opField w = 0x2#4 ∧ ssField w = false ∧ rsvField w = 0#3 ∧ aField w = 0#8 ∧ bField w = 0#8 := by
  simp only [Row.selects, rowRepeatStart, beq_iff_eq, BitVec.eq_iff_bits, opField, ssField, rsvField, aField, bField, forall_below_succ]
  simp [BitVec.getLsbD_extractLsb', -BitVec.getLsbD_eq_getElem]
  tauto

theorem rowStop_selects (w : Word32) : rowStop.selects w = true ↔
    opField w = 0x3#4 ∧ ssField w = false ∧ rsvField w = 0#3 ∧ devField w = 0#7 ∧ dirField w = .W ∧ aField w = 0#8 ∧ bField w = 0#8 := by
  simp only [Row.selects, rowStop, beq_iff_eq, BitVec.eq_iff_bits, opField, ssField, rsvField, devField, aField, bField, dirField_eq_W, forall_below_succ]
  simp [BitVec.getLsbD_extractLsb', -BitVec.getLsbD_eq_getElem]
  tauto

theorem rowWriteDevice_selects (w : Word32) : rowWriteDevice.selects w = true ↔
    opField w = 0x4#4 ∧ ssField w = false ∧ rsvField w = 0#3 ∧ devField w = 0#7 ∧ dirField w = .W ∧ aField w = 0#8 := by
  simp only [Row.selects, rowWriteDevice, beq_iff_eq, BitVec.eq_iff_bits, opField, ssField, rsvField, devField, aField, dirField_eq_W, forall_below_succ]
  simp [BitVec.getLsbD_extractLsb', -BitVec.getLsbD_eq_getElem]
  tauto

theorem rowReadDeviceWithAck_selects (w : Word32) : rowReadDeviceWithAck.selects w = true ↔
    opField w = 0x5#4 ∧ ssField w = false ∧ rsvField w = 0#3 ∧ devField w = 0#7 ∧ dirField w = .W ∧ aField w = 0#8 ∧ bField w = 0#8 := by
  simp only [Row.selects, rowReadDeviceWithAck, beq_iff_eq, BitVec.eq_iff_bits, opField, ssField, rsvField, devField, aField, bField, dirField_eq_W, forall_below_succ]
  simp [BitVec.getLsbD_extractLsb', -BitVec.getLsbD_eq_getElem]
  tauto

theorem rowReadDeviceWithNak_selects (w : Word32) : rowReadDeviceWithNak.selects w = true ↔
    opField w = 0x6#4 ∧ ssField w = false ∧ rsvField w = 0#3 ∧ devField w = 0#7 ∧ dirField w = .W ∧ aField w = 0#8 ∧ bField w = 0#8 := by
  simp only [Row.selects, rowReadDeviceWithNak, beq_iff_eq, BitVec.eq_iff_bits, opField, ssField, rsvField, devField, aField, bField, dirField_eq_W, forall_below_succ]
  simp [BitVec.getLsbD_extractLsb', -BitVec.getLsbD_eq_getElem]
  tauto

theorem rowWriteBytes_selects (w : Word32) : rowWriteBytes.selects w = true ↔
    opField w = 0x8#4 ∧ rsvField w = 0#3 ∧ dirField w = .W ∧ aField w = 0#8 := by
  simp only [Row.selects, rowWriteBytes, beq_iff_eq, BitVec.eq_iff_bits, opField, rsvField, aField, dirField_eq_W, forall_below_succ]
  simp [BitVec.getLsbD_extractLsb', -BitVec.getLsbD_eq_getElem]
  tauto

theorem rowReadBytes_selects (w : Word32) : rowReadBytes.selects w = true ↔
    opField w = 0x9#4 ∧ rsvField w = 0#3 ∧ dirField w = .W ∧ aField w = 0#8 := by
  simp only [Row.selects, rowReadBytes, beq_iff_eq, BitVec.eq_iff_bits, opField, rsvField, aField, dirField_eq_W, forall_below_succ]
  simp [BitVec.getLsbD_extractLsb', -BitVec.getLsbD_eq_getElem]
  tauto

theorem rowWriteRegister_selects (w : Word32) : rowWriteRegister.selects w = true ↔
    opField w = 0xA#4 ∧ ssField w = false ∧ rsvField w = 0#3 ∧ dirField w = .W := by
  simp only [Row.selects, rowWriteRegister, beq_iff_eq, BitVec.eq_iff_bits, opField, ssField, rsvField, dirField_eq_W, forall_below_succ]
  simp [BitVec.getLsbD_extractLsb', -BitVec.getLsbD_eq_getElem]
  tauto

theorem rowWriteRegisterMulti_selects (w : Word32) : rowWriteRegisterMulti.selects w = true ↔
    opField w = 0xB#4 ∧ ssField w = false ∧ rsvField w = 0#3 ∧ dirField w = .W := by
  simp only [Row.selects, rowWriteRegisterMulti, beq_iff_eq, BitVec.eq_iff_bits, opField, ssField, rsvField, dirField_eq_W, forall_below_succ]
  simp [BitVec.getLsbD_extractLsb', -BitVec.getLsbD_eq_getElem]
  tauto

theorem rowReadRegister_selects (w : Word32) : rowReadRegister.selects w = true ↔
    opField w = 0xC#4 ∧ ssField w = false ∧ rsvField w = 0#3 ∧ dirField w = .W ∧ bField w = 0#8 := by
  simp only [Row.selects, rowReadRegister, beq_iff_eq, BitVec.eq_iff_bits, opField, ssField, rsvField, bField, dirField_eq_W, forall_below_succ]
  simp [BitVec.getLsbD_extractLsb', -BitVec.getLsbD_eq_getElem]
  tauto

theorem rowReadRegisterMulti_selects (w : Word32) : rowReadRegisterMulti.selects w = true ↔
    opField w = 0xD#4 ∧ ssField w = false ∧ rsvField w = 0#3 ∧ dirField w = .W := by
  simp only [Row.selects, rowReadRegisterMulti, beq_iff_eq, BitVec.eq_iff_bits, opField, ssField, rsvField, dirField_eq_W, forall_below_succ]
  simp [BitVec.getLsbD_extractLsb', -BitVec.getLsbD_eq_getElem]
  tauto

theorem rowScanBus_selects (w : Word32) : rowScanBus.selects w = true ↔
    opField w = 0xE#4 ∧ ssField w = false ∧ rsvField w = 0#3 ∧ devField w = 0#7 ∧ dirField w = .W ∧ aField w = 0#8 ∧ bField w = 0#8 := by
  simp only [Row.selects, rowScanBus, beq_iff_eq, BitVec.eq_iff_bits, opField, ssField, rsvField, devField, aField, bField, dirField_eq_W, forall_below_succ]
  simp [BitVec.getLsbD_extractLsb', -BitVec.getLsbD_eq_getElem]
  tauto

/-! ## The fields of a word, and what it decodes to -/

theorem packWord_fields {w : Word32} (h : rsvField w = 0#3) :
    packWord (opField w) (ssField w) (devField w) (dirBit (dirField w)) (aField w) (bField w) = w := by
  have bit : ∀ k, (BitVec.ofBool (w.getLsbD k)).toNat = w.toNat / 2 ^ k % 2 := by
    intro k
    rw [BitVec.toNat_ofBool, BitVec.getLsbD, Nat.toNat_testBit]
  have hd : (dirBit (dirField w)).toNat = w.toNat / 2 ^ 16 % 2 := by
    rw [← bit, dirField]
    cases w.getLsbD 16 <;> rfl
  have hr : w.toNat / 2 ^ 24 % 2 ^ 3 = 0 := by
    have := congrArg BitVec.toNat h
    rwa [rsvField, BitVec.extractLsb'_toNat, Nat.shiftRight_eq_div_pow] at this
  have hw := w.isLt
  apply BitVec.eq_of_toNat_eq
  rw [packWord_toNat, hd, ssField, bit, opField, devField, aField, bField]
  simp only [BitVec.extractLsb'_toNat, Nat.shiftRight_eq_div_pow]
  omega

@[simp] theorem countByte_countField (w : Word32) : countByte (countField w) = bField w := by simp [countByte, countField]

@[simp] theorem countFits_countField (w : Word32) : countFits (countField w) = true := by
  have := (bField w).isLt
  exact decide_eq_true (by simpa [countField] using this)

/-- A word that decodes is selected by the row of what it decodes to, and its operands are the word's fields. -/
theorem decode_ok {w : Word32} {i : Instr} (h : decode w = .ok i) :
    (rowStart.selects w = true ∧ i = .start (devField w) (dirField w)) ∨
    (rowRepeatStart.selects w = true ∧ i = .repeatStart (devField w) (dirField w)) ∨
    (rowStop.selects w = true ∧ i = .stop) ∨
    (rowWriteDevice.selects w = true ∧ i = .writeDevice (bField w)) ∨
    (rowReadDeviceWithAck.selects w = true ∧ i = .readDeviceWithAck) ∨
    (rowReadDeviceWithNak.selects w = true ∧ i = .readDeviceWithNak) ∨
    (rowWriteBytes.selects w = true ∧ i = .writeBytes (devField w) (countField w) (ssField w)) ∨
    (rowReadBytes.selects w = true ∧ i = .readBytes (devField w) (countField w) (ssField w)) ∨
    (rowWriteRegister.selects w = true ∧ i = .writeRegister (devField w) (aField w) (bField w)) ∨
    (rowWriteRegisterMulti.selects w = true ∧ i = .writeRegisterMulti (devField w) (aField w) (countField w)) ∨
    (rowReadRegister.selects w = true ∧ i = .readRegister (devField w) (aField w)) ∨
    (rowReadRegisterMulti.selects w = true ∧ i = .readRegisterMulti (devField w) (aField w) (countField w)) ∨
    (rowScanBus.selects w = true ∧ i = .scanBus) := by
  unfold decode at h
  by_cases cStart : rowStart.selects w = true
  · rw [if_pos cStart] at h; injection h with h; subst h; simp [cStart]
  rw [if_neg cStart] at h
  by_cases cRepeatStart : rowRepeatStart.selects w = true
  · rw [if_pos cRepeatStart] at h; injection h with h; subst h; simp [cRepeatStart]
  rw [if_neg cRepeatStart] at h
  by_cases cStop : rowStop.selects w = true
  · rw [if_pos cStop] at h; injection h with h; subst h; simp [cStop]
  rw [if_neg cStop] at h
  by_cases cWriteDevice : rowWriteDevice.selects w = true
  · rw [if_pos cWriteDevice] at h; injection h with h; subst h; simp [cWriteDevice]
  rw [if_neg cWriteDevice] at h
  by_cases cReadDeviceWithAck : rowReadDeviceWithAck.selects w = true
  · rw [if_pos cReadDeviceWithAck] at h; injection h with h; subst h; simp [cReadDeviceWithAck]
  rw [if_neg cReadDeviceWithAck] at h
  by_cases cReadDeviceWithNak : rowReadDeviceWithNak.selects w = true
  · rw [if_pos cReadDeviceWithNak] at h; injection h with h; subst h; simp [cReadDeviceWithNak]
  rw [if_neg cReadDeviceWithNak] at h
  by_cases cWriteBytes : rowWriteBytes.selects w = true
  · rw [if_pos cWriteBytes] at h; injection h with h; subst h; simp [cWriteBytes]
  rw [if_neg cWriteBytes] at h
  by_cases cReadBytes : rowReadBytes.selects w = true
  · rw [if_pos cReadBytes] at h; injection h with h; subst h; simp [cReadBytes]
  rw [if_neg cReadBytes] at h
  by_cases cWriteRegister : rowWriteRegister.selects w = true
  · rw [if_pos cWriteRegister] at h; injection h with h; subst h; simp [cWriteRegister]
  rw [if_neg cWriteRegister] at h
  by_cases cWriteRegisterMulti : rowWriteRegisterMulti.selects w = true
  · rw [if_pos cWriteRegisterMulti] at h; injection h with h; subst h; simp [cWriteRegisterMulti]
  rw [if_neg cWriteRegisterMulti] at h
  by_cases cReadRegister : rowReadRegister.selects w = true
  · rw [if_pos cReadRegister] at h; injection h with h; subst h; simp [cReadRegister]
  rw [if_neg cReadRegister] at h
  by_cases cReadRegisterMulti : rowReadRegisterMulti.selects w = true
  · rw [if_pos cReadRegisterMulti] at h; injection h with h; subst h; simp [cReadRegisterMulti]
  rw [if_neg cReadRegisterMulti] at h
  by_cases cScanBus : rowScanBus.selects w = true
  · rw [if_pos cScanBus] at h; injection h with h; subst h; simp [cScanBus]
  rw [if_neg cScanBus] at h
  cases h

end Sys2Proof
end

