-- ==== Sys2Proof/Laws/PerInstr.lean ====
section
/-! SUPPORT. Statements about every operation, one lemma per constructor: its command word is selected by its own row of
R64. -/

namespace Sys2Proof.Laws.RowSelects

/-- The command word of the operation matches the operation's row of R64. -/
def Statement (i : Instr) : Prop := i.row.selects (encode i) = true

theorem start : ∀ (d : Addr7) (dir : Dir), Statement (.start d dir) := by
  intro d dir
  show rowStart.selects (encode (.start d dir)) = true
  simp [rowStart_selects, encode]

theorem repeatStart : ∀ (d : Addr7) (dir : Dir), Statement (.repeatStart d dir) := by
  intro d dir
  show rowRepeatStart.selects (encode (.repeatStart d dir)) = true
  simp [rowRepeatStart_selects, encode]

theorem stop : Statement (.stop) := by
  show rowStop.selects (encode (.stop)) = true
  simp [rowStop_selects, encode]

theorem writeDevice : ∀ (b : Byte), Statement (.writeDevice b) := by
  intro b
  show rowWriteDevice.selects (encode (.writeDevice b)) = true
  simp [rowWriteDevice_selects, encode]

theorem readDeviceWithAck : Statement (.readDeviceWithAck) := by
  show rowReadDeviceWithAck.selects (encode (.readDeviceWithAck)) = true
  simp [rowReadDeviceWithAck_selects, encode]

theorem readDeviceWithNak : Statement (.readDeviceWithNak) := by
  show rowReadDeviceWithNak.selects (encode (.readDeviceWithNak)) = true
  simp [rowReadDeviceWithNak_selects, encode]

theorem writeBytes : ∀ (d : Addr7) (n : Nat) (ss : Bool), Statement (.writeBytes d n ss) := by
  intro d n ss
  show rowWriteBytes.selects (encode (.writeBytes d n ss)) = true
  simp [rowWriteBytes_selects, encode]

theorem readBytes : ∀ (d : Addr7) (n : Nat) (ss : Bool), Statement (.readBytes d n ss) := by
  intro d n ss
  show rowReadBytes.selects (encode (.readBytes d n ss)) = true
  simp [rowReadBytes_selects, encode]

theorem writeRegister : ∀ (d : Addr7) (r v : Byte), Statement (.writeRegister d r v) := by
  intro d r v
  show rowWriteRegister.selects (encode (.writeRegister d r v)) = true
  simp [rowWriteRegister_selects, encode]

theorem writeRegisterMulti : ∀ (d : Addr7) (r : Byte) (n : Nat), Statement (.writeRegisterMulti d r n) := by
  intro d r n
  show rowWriteRegisterMulti.selects (encode (.writeRegisterMulti d r n)) = true
  simp [rowWriteRegisterMulti_selects, encode]

theorem readRegister : ∀ (d : Addr7) (r : Byte), Statement (.readRegister d r) := by
  intro d r
  show rowReadRegister.selects (encode (.readRegister d r)) = true
  simp [rowReadRegister_selects, encode]

theorem readRegisterMulti : ∀ (d : Addr7) (r : Byte) (n : Nat), Statement (.readRegisterMulti d r n) := by
  intro d r n
  show rowReadRegisterMulti.selects (encode (.readRegisterMulti d r n)) = true
  simp [rowReadRegisterMulti_selects, encode]

theorem scanBus : Statement (.scanBus) := by
  show rowScanBus.selects (encode (.scanBus)) = true
  simp [rowScanBus_selects, encode]

end Sys2Proof.Laws.RowSelects
end

