-- ==== Sys2Proof/Laws/Sequences.lean ====
section
/-! SUPPORT. The sequences the composites are built from (R87..R93), under given answers of the environment: what each logs,
stores and answers, and which answers it leaves in the queues. -/

namespace Sys2Proof.Machine

/-- At most `k` waits are used: what is left after `k` more is still there. -/
def Waits (k : Nat) (s t : State) : Prop := ∀ m, WaitsComplete (k + m) s → WaitsComplete m t

theorem Waits.refl (s : State) : Waits 0 s s := fun m h => by simpa using h

theorem Waits.trans {j k : Nat} {s t u : State} (h : Waits j s t) (h' : Waits k t u) : Waits (j + k) s u :=
  fun m hm => h' m (h (k + m) (by rwa [← Nat.add_assoc]))

theorem Waits.mono {j k : Nat} {s t : State} (h : Waits j s t) (hj : j ≤ k) : Waits k s t :=
  fun m hm => h m (hm.mono (by omega))

/-- The queue shorter by `k`, the bound the same. -/
theorem Waits.of_drop {k : Nat} {s t : State} (hc : t.cfg = s.cfg) (hw : t.env.waits = s.env.waits.drop k) :
    Waits k s t := by
  intro m ⟨hl, hb⟩
  refine ⟨by rw [hw, List.length_drop]; omega, fun w hm => ?_⟩
  rw [hc]
  refine hb w ?_
  rw [hw, List.take_drop] at hm
  exact List.mem_of_mem_drop hm

theorem Waits.congr {k : Nat} {s s' t : State} (h : Waits k s t) (hc : s'.cfg = s.cfg) (he : s'.env = s.env) :
    Waits k s' t := fun m hm => h m (by unfold WaitsComplete at *; rwa [hc, he] at hm)

/-- What holds of a body's end holds of the result it is known to have. -/
theorem Run.Within.of_done {α : Type} {D H : State → State → Prop} {s t : State} {r : Run α} {a : α} (h : r.Within D H s)
    (hr : r = .done a t) : D s t := by
  subst hr; exact h

/-- The callback's acts change the caller's memory and the mark `refused` only. -/
theorem callbackActs_eq (a : Addr7) (acts : Callback) (s : State) :
    ∃ m r, callbackActs a acts s = { s with mem := m, refused := r } := by
  induction acts generalizing s with
  | nil => exact ⟨_, _, rfl⟩
  | cons x rest ih =>
    rw [callbackActs]
    split
    · obtain ⟨m, r, h⟩ := ih (callbackAct x.2 s)
      rw [h]
      cases x.2 <;> exact ⟨m, r, rfl⟩
    · exact ih s

/-! ## Each primitive, with all it leaves alone -/

/-- What a primitive that returns leaves alone. -/
def Quiet (s t : State) : Prop := Going s t ∧ SameMem s t

theorem closed_quiet : Closed Quiet (fun s t => Stuck s t ∧ SameMem s t) := closed_ends.and closed_mem

theorem Quiet.trans {s t u : State} (h : Quiet s t) (k : Quiet t u) : Quiet s u := closed_quiet.trans h k

theorem Quiet.memRead {s t : State} (h : Quiet s t) (buf : BufRef) (i : Nat) : memRead buf i t = memRead buf i s := by
  unfold Sys2Proof.Machine.memRead; rw [h.2.1]

section
variable {s : State}

/-- A byte written, acknowledged or not. -/
theorem write_step (b : Byte) {a : Bool} {as : List Bool} (ha : s.env.acks = a :: as) (hw : WaitsComplete 1 s) :
    ∃ t, bodyWriteDevice b s = .done a t ∧ t.log = s.log ++ [Event.write b, if a then .ack else .nak] ∧
      t.wire = s.wire ++ (masterByte b ++ [.T (ackLevel a)]) ∧ t.phase = .tx ∧ t.owned = s.owned ∧
      t.env.startConds = s.env.startConds ∧ t.env.acks = as ∧ t.env.bytes = s.env.bytes ∧ Waits 1 s t ∧ Quiet s t := by
  obtain ⟨t, ht, hl, hx, hp, ho, -, he⟩ := bodyWriteDevice_done b ha hw
  have hq : Quiet s t := Run.Within.of_done (closed_quiet.bodyWriteDevice b s) ht
  exact ⟨t, ht, hl, by rw [hx, List.append_assoc, byteM_eq, ackBit_eq], hp, ho, he.startConds, he.acks, he.bytes, Waits.of_drop hq.1.1.cfg (by simp [he.waits]), hq⟩

/-- A byte read. -/
theorem read_step (ack : Bool) {v : Byte} {vs : List Byte} (hv : s.env.bytes = v :: vs) (hw : WaitsComplete 1 s) :
    ∃ t, bodyRead ack s = .done v t ∧ t.log = s.log ++ [Event.read v, if ack then .ack else .nak] ∧
      t.wire = s.wire ++ (targetByte v ++ [.M (ackLevel ack)]) ∧ t.phase = (if ack then .rx else .rxEnd) ∧
      t.owned = s.owned ∧ t.env.startConds = s.env.startConds ∧ t.env.acks = s.env.acks ∧ t.env.bytes = vs ∧
      Waits 1 s t ∧ Quiet s t := by
  obtain ⟨t, ht, hl, hx, hp, ho, -, he⟩ := bodyRead_done ack hv hw
  have hq : Quiet s t := Run.Within.of_done (closed_quiet.bodyRead ack s) ht
  exact ⟨t, ht, hl, by rw [hx, List.append_assoc, byteT_eq, ackBit_eq], hp, ho, he.startConds, he.acks, he.bytes, Waits.of_drop hq.1.1.cfg (by simp [he.waits]), hq⟩

/-- A `stop`. -/
theorem stop_step (hw : WaitsComplete 1 s) :
    ∃ t, bodyStop s = .done () t ∧ t.log = s.log ++ [Event.stop] ∧ t.wire = s.wire ++ [.P] ∧ t.phase = .idle ∧
      t.owned = false ∧ t.env.startConds = s.env.startConds ∧ t.env.acks = s.env.acks ∧ t.env.bytes = s.env.bytes ∧
      Waits 1 s t ∧ Quiet s t := by
  obtain ⟨t, ht, hl, hx, hp, ho, -, he⟩ := bodyStop_done hw
  have hq : Quiet s t := Run.Within.of_done (closed_quiet.bodyStop s) ht
  exact ⟨t, ht, hl, hx, hp, ho, he.startConds, he.acks, he.bytes, Waits.of_drop hq.1.1.cfg (by simp [he.waits]), hq⟩

/-- A start condition established, the address acknowledged or not. -/
theorem start_step (tok : Event) (d : Addr7) (dir : Dir) {cs as : List Bool} {a : Bool}
    (hc : s.env.startConds = true :: cs) (ha : s.env.acks = a :: as) (hw : WaitsComplete 2 s) :
    ∃ t, bodyStart tok d dir s = .done a t ∧ t.log = s.log ++ [tok, if a then .addrAck else .addrNak] ∧
      t.wire = s.wire ++ addressWire s.owned d dir a ∧
      t.phase = (if a then (match dir with | .W => .tx | .R => .rx) else .addrNak) ∧ t.owned = true ∧
      t.env.startConds = cs ∧ t.env.acks = as ∧ t.env.bytes = s.env.bytes ∧ Waits 2 s t ∧ Quiet s t := by
  obtain ⟨t, ht, hl, hx, hp, ho, -, he⟩ := bodyStart_established tok d dir hc ha hw
  have hq : Quiet s t := Run.Within.of_done (closed_quiet.bodyStart tok d dir s) ht
  exact ⟨t, ht, hl, hx, hp, ho, he.startConds, he.acks, he.bytes, Waits.of_drop hq.1.1.cfg he.waits, hq⟩

/-- A `stop` where one is asked for. -/
theorem stopIf_step (ss : Bool) (hw : WaitsComplete 1 s) :
    ∃ t, stopIf ss s = .done () t ∧ t.log = s.log ++ stopEvents ss ∧ t.wire = s.wire ++ stopWire ss ∧
      t.phase = (if ss then .idle else s.phase) ∧ t.owned = (!ss && s.owned) ∧ Quiet s t := by
  cases ss
  · exact ⟨s, rfl, by simp [stopEvents], by simp [stopWire], rfl, rfl, closed_quiet.refl s⟩
  · obtain ⟨t, ht, hl, hx, hp, ho, -, -, -, -, hq⟩ := stop_step hw
    exact ⟨t, ht, hl, hx, hp, ho, hq⟩

/-! ## Data bytes written -/

/-- `k` bytes written from index `i` on, one ACK bit for each in the queue. -/
theorem writeLoop_step (cont : Bool) (buf : BufRef) (k i : Nat) {as rest : List Bool} (hp : s.phase = .tx)
    (ha : s.env.acks = as ++ rest) (hk : as.length = k) (hw : WaitsComplete k s) :
    ∃ t, writeLoop cont buf k i s = .done (as.all fun a => a) t ∧
      t.log = s.log ++ writeEvents cont ((List.range' i k).map fun j => memRead buf j s) as ∧
      t.wire = s.wire ++ writeWire cont ((List.range' i k).map fun j => memRead buf j s) as ∧ t.phase = .tx ∧
      t.owned = s.owned ∧ Waits k s t ∧ Quiet s t := by
  induction k generalizing i s as with
  | zero =>
    obtain rfl : as = [] := List.length_eq_zero_iff.1 hk
    exact ⟨s, rfl, by simp [writeEvents], by simp [writeWire], hp, rfl, Waits.refl s, closed_quiet.refl s⟩
  | succ k ih =>
    obtain ⟨a, as, rfl⟩ : ∃ x xs, as = x :: xs := by cases as <;> simp_all
    obtain ⟨t, ht, hl, hx, htp, hto, -, hta, -, htw, htq⟩ := write_step (memRead buf i s) ha (hw.mono (by omega))
    rw [writeLoop, ht, Run.bind_done]
    by_cases hc : a || cont
    · obtain ⟨u, hu, hul, hux, hup, huo, huw, huq⟩ :=
        ih (i + 1) htp hta (by simpa using hk) (htw k (by rwa [Nat.add_comm]))
      have hm : (fun j => memRead buf j t) = fun j => memRead buf j s := funext (htq.memRead buf)
      refine ⟨u, ?_, ?_, ?_, hup, huo.trans hto, (htw.trans huw).mono (by omega), htq.trans huq⟩
      · rw [if_pos hc, hu]; rfl
      · rw [hul, hl, hm]; simp [List.range'_succ, writeEvents, hc]
      · rw [hux, hx, hm]; simp [List.range'_succ, writeWire, hc]
    · obtain ⟨rfl, rfl⟩ : a = false ∧ cont = false := by simpa using hc
      exact ⟨t, rfl, by rw [hl]; simp [List.range'_succ, writeEvents], by rw [hx]; simp [List.range'_succ, writeWire], htp,
        hto, htw.mono (by omega), htq⟩

/-! ## Data bytes read -/

/-- The events of bytes read with ACK. -/
def ackedReads (vs : List Byte) : List Event := vs.flatMap fun v => [Event.read v, .ack]

theorem readEvents_append (vs : List Byte) (v : Byte) : readEvents (vs ++ [v]) = ackedReads vs ++ [Event.read v, .nak] := by
  induction vs with
  | nil => rfl
  | cons x xs ih =>
    cases xs with
    | nil => rfl
    | cons y ys => simp only [List.cons_append] at ih ⊢; rw [readEvents, ih] <;> simp [ackedReads]

/-- The wire of bytes read with ACK. -/
def ackedReadWire (vs : List Byte) : List WireSym := vs.flatMap fun v => targetByte v ++ [.M (ackLevel true)]

theorem readWire_append (vs : List Byte) (v : Byte) :
    readWire (vs ++ [v]) = ackedReadWire vs ++ (targetByte v ++ [.M (ackLevel false)]) := by
  induction vs with
  | nil => rfl
  | cons x xs ih =>
    cases xs with
    | nil => rfl
    | cons y ys => simp only [List.cons_append] at ih ⊢; rw [readWire, ih] <;> simp [ackedReadWire]

/-- The bytes `vs` stored at consecutive places. -/
def Memory.writeAll (m : Memory) (a : Nat) : List Byte → Memory
  | [] => m
  | v :: vs => Memory.writeAll (m.write a v) (a + 1) vs

theorem Memory.writeAll_wf {m : Memory} (h : Memory.wf m) (a : Nat) (vs : List Byte) : Memory.wf (m.writeAll a vs) := by
  induction vs generalizing m a with
  | nil => exact h
  | cons v vs ih => exact ih (Memory.write_wf h a v) (a + 1)

theorem Memory.writeAll_append (m : Memory) (a : Nat) (vs ws : List Byte) :
    m.writeAll a (vs ++ ws) = (m.writeAll a vs).writeAll (a + vs.length) ws := by
  induction vs generalizing m a with
  | nil => rfl
  | cons v vs ih => simp only [List.cons_append, Memory.writeAll, ih, List.length_cons]; congr 1; omega

theorem Memory.read_writeAll_other {m : Memory} {a b : Nat} {vs : List Byte} (h : b < a ∨ a + vs.length ≤ b) :
    (m.writeAll a vs).read b = m.read b := by
  induction vs generalizing m a with
  | nil => rfl
  | cons v vs ih =>
    rw [List.length_cons] at h
    rw [Memory.writeAll, ih (by omega), Memory.read_write_other m v (by omega)]

theorem Memory.read_writeAll {m : Memory} (hm : Memory.wf m) {a j : Nat} {vs : List Byte} (hj : j < vs.length) :
    (m.writeAll a vs).read (a + j) = vs[j] := by
  induction vs generalizing m a j with
  | nil => exact absurd hj (Nat.not_lt_zero j)
  | cons v vs ih =>
    rw [Memory.writeAll]
    cases j with
    | zero => rw [Memory.read_writeAll_other (by omega)]; exact Memory.read_write_same hm a v
    | succ j =>
      have := ih (m := m.write a v) (Memory.write_wf hm a v) (a := a + 1) (j := j) (by simpa using hj)
      rw [show a + (j + 1) = a + 1 + j by omega, this]; rfl

/-- `k` bytes read with ACK into the buffer from index `i` on. -/
theorem readLoop_step (buf : BufRef) (k i : Nat) {vs rest : List Byte} (hp : s.phase = .rx)
    (hv : s.env.bytes = vs ++ rest) (hk : vs.length = k) (hw : WaitsComplete k s) :
    ∃ t, readLoop buf k i s = .done () t ∧ t.log = s.log ++ ackedReads vs ∧
      t.wire = s.wire ++ ackedReadWire vs ∧ t.phase = .rx ∧ t.owned = s.owned ∧ t.env.startConds = s.env.startConds ∧ t.env.acks = s.env.acks ∧ t.env.bytes = rest ∧
      t.mem = s.mem.writeAll (buf.addr i) vs ∧ t.refused = s.refused ∧ Waits k s t ∧ Going s t := by
  induction k generalizing i s vs with
  | zero =>
    obtain rfl : vs = [] := List.length_eq_zero_iff.1 hk
    exact ⟨s, rfl, by simp [ackedReads], by simp [ackedReadWire], hp, rfl, rfl, rfl, by simpa using hv, rfl, rfl, Waits.refl s, closed_ends.refl s⟩
  | succ k ih =>
    obtain ⟨v, vs, rfl⟩ : ∃ x xs, vs = x :: xs := by cases vs <;> simp_all
    obtain ⟨t, ht, hl, htx, htp, hto, hts, hta, htb, htw, htq⟩ := read_step true hv (hw.mono (by omega))
    rw [readLoop, ht, Run.bind_done, memWrite_eq]
    generalize hx : storeByte (buf.addr i) v t = x
    have hxt : Going t x := hx ▸ Going.storeByte _ _ _
    have hxw : Waits 1 s x := (htw.trans (k := 0) (fun m hm => by subst hx; exact (show WaitsComplete m t by simpa using hm)))
    obtain ⟨u, hu, hul, hux, hup, huo, hus, hua, hub, hum, hur, huw, hug⟩ :=
      ih (s := x) (i + 1) (by subst hx; exact htp) (vs := vs) (by subst hx; exact htb) (by simpa using hk)
        (hxw k (by rwa [Nat.add_comm]))
    refine ⟨u, hu, ?_, ?_, hup, ?_, ?_, ?_, hub, ?_, ?_, (hxw.trans huw).mono (by omega), ?_⟩
    · rw [hul]; subst hx; simp [hl, ackedReads]
    · rw [hux]; subst hx; simp [htx, ackedReadWire]
    · rw [huo]; subst hx; exact hto
    · rw [hus]; subst hx; exact hts
    · rw [hua]; subst hx; exact hta
    · rw [hum]; subst hx
      show (t.mem.write _ _).writeAll _ _ = _
      rw [htq.2.1]; rfl
    · rw [hur]; subst hx; exact htq.2.2
    · exact closed_ends.trans (closed_ends.trans htq.1 hxt) hug

/-- The read phase of one or more bytes: all but the last with ACK (R96), stored in order (R45). -/
theorem readPhase_step (buf : BufRef) {n : Nat} (hn : 1 ≤ n) {vs rest : List Byte} (hp : s.phase = .rx)
    (hv : s.env.bytes = vs ++ rest) (hk : vs.length = n) (hw : WaitsComplete n s) :
    ∃ t, readPhase buf n s = .done () t ∧ t.log = s.log ++ readEvents vs ∧
      t.wire = s.wire ++ readWire vs ∧ t.phase = .rxEnd ∧ t.owned = s.owned ∧ t.mem = s.mem.writeAll (buf.addr 0) vs ∧ t.refused = s.refused ∧ Waits n s t ∧ Going s t := by
  obtain ⟨us, v, rfl⟩ : ∃ us v, vs = us ++ [v] := by
    rcases List.eq_nil_or_concat vs with rfl | ⟨us, v, rfl⟩
    · simp at hk; omega
    · exact ⟨us, v, by simp⟩
  obtain ⟨k, rfl⟩ : ∃ k, n = k + 1 := ⟨n - 1, by omega⟩
  have hk' : us.length = k := by simpa using hk
  obtain ⟨t, ht, hl, htx, htp, hto, -, -, htb, htm, htr, htw, htg⟩ :=
    readLoop_step buf k 0 hp (vs := us) (rest := v :: rest) (by simpa using hv) hk' (hw.mono (by omega))
  obtain ⟨u, hu, hul, hux, hup, huo, -, -, -, huw, huq⟩ := read_step false htb (htw 1 hw)
  refine ⟨storeByte (buf.addr k) v u, ?_, ?_, ?_, hup, huo.trans hto, ?_, ?_, ?_, ?_⟩
  · simp [readPhase, ht, hu]
  · show u.log = _
    rw [hul, hl, readEvents_append]; simp
  · show u.wire = _
    rw [hux, htx, readWire_append]; simp
  · show u.mem.write _ _ = _
    rw [huq.2.1, htm, Memory.writeAll_append]
    simp only [Memory.writeAll, BufRef.addr, hk']; congr 1
  · exact huq.2.2.trans htr
  · exact fun m hm => huw m (htw (1 + m) (by rwa [← Nat.add_assoc]))
  · exact closed_ends.trans (closed_ends.trans htg huq.1) (Going.storeByte _ _ _)

/-- The write-then-read idiom up to its read phase, every step of it acknowledged (R91, R92). -/
theorem selectRegister_step (d : Addr7) (r : Byte) {cs as : List Bool} (hc : s.env.startConds = true :: true :: cs)
    (ha : s.env.acks = true :: true :: true :: as) (hw : WaitsComplete 5 s) :
    ∃ t, selectRegister d r s = .done true t ∧
      t.log = s.log ++ [Event.start d .W, .addrAck, .write r, .ack, .rstart d .R, .addrAck] ∧
      t.wire = s.wire ++ (addressWire s.owned d .W true ++ (masterByte r ++ [.T (ackLevel true)]) ++
        addressWire true d .R true) ∧ t.phase = .rx ∧ t.owned = true ∧ t.env.bytes = s.env.bytes ∧ Waits 5 s t ∧ Quiet s t := by
  obtain ⟨t, ht, hl, htx, -, hto, hts, hta, htb, htw, htq⟩ := start_step (.start d .W) d .W hc ha (hw.mono (by omega))
  obtain ⟨u, hu, hul, hux, -, huo, hus, hua, hub, huw, huq⟩ := write_step r hta (htw 1 (hw.mono (by omega)))
  rw [hts] at hus
  obtain ⟨v, hv, hvl, hvx, hvp, hvo, -, -, hvb, hvw, hvq⟩ :=
    start_step (.rstart d .R) d .R hus hua ((htw.trans huw) 2 hw)
  refine ⟨v, ?_, ?_, ?_, hvp, hvo, by rw [hvb, hub, htb], (htw.trans huw).trans hvw, (htq.trans huq).trans hvq⟩
  · simp [selectRegister, onSuccess, callStart, callRepeatStart, ht, hu, hv]
  · rw [hvl, hul, hl]; simp
  · rw [hvx, hux, htx, huo, hto]; simp only [List.append_assoc]

/-! ## A scan -/

/-- `k` scan attempts from address `a` on, their start conditions all established (R93, R98). -/
theorem scanLoop_step (k a : Nat) {cs as ar : List Bool} {vs rest : List Byte} 
    (hc : s.env.startConds = List.replicate k true ++ cs) (ha : s.env.acks = as ++ ar) (hk : as.length = k)
    (hv : s.env.bytes = vs ++ rest) (hn : as.count true ≤ vs.length) (hw : WaitsComplete (4 * k) s) :
    ∃ t, scanLoop k a s = .done () t ∧ t.log = s.log ++ scanEvents k a as vs ∧
      t.wire = s.wire ++ scanWire s.owned k a as vs ∧
      (as ≠ [] → t.phase = (if as.getLast? = some true then .idle else .addrNak) ∧ t.owned = (as.getLast? != some true)) ∧
      Going s t := by
  induction k generalizing a s as vs with
  | zero =>
    obtain rfl : as = [] := List.length_eq_zero_iff.1 hk
    exact ⟨s, rfl, by simp [scanEvents], by simp [scanWire], by simp, closed_ends.refl s⟩
  | succ k ih =>
    obtain ⟨x, as, rfl⟩ : ∃ x xs, as = x :: xs := by cases as <;> simp_all
    rw [List.replicate_succ] at hc
    have hk' : as.length = k := by simpa using hk
    obtain ⟨t, ht, hl, hx, hp, ho, hts, hta, htb, htw, htq⟩ :=
      start_step (.start (BitVec.ofNat 7 a) .R) (BitVec.ofNat 7 a) .R hc ha (hw.mono (by omega))
    rw [scanLoop, callStart, ht, Run.bind_done]
    cases x with
    | false =>
      obtain ⟨u, hu, hul, hux, hup, hug⟩ := ih (s := t) (a + 1) hts hta hk' (htb.trans hv) (by simpa using hn)
        ((htw (4 * k) (hw.mono (by omega))))
      refine ⟨u, ?_, ?_, ?_, ?_, closed_ends.trans htq.1 hug⟩
      · simpa using hu
      · rw [hul, hl]; simp [scanEvents]
      · rw [hux, hx, ho]; simp [scanWire]
      · intro _
        cases as with
        | nil =>
          simp at hk'; subst hk'
          simp [scanLoop] at hu; subst hu
          simp [hp, ho]
        | cons y ys => simpa [List.getLast?_cons_cons] using hup (by simp)
    | true =>
      obtain ⟨v, vs, rfl⟩ : ∃ x xs, vs = x :: xs := by cases vs <;> simp_all
      obtain ⟨u, hu, hul, hux, hup, huo, hus, hua, hub, huw, huq⟩ :=
        read_step false (htb.trans hv) (htw 1 (hw.mono (by omega)))
      obtain ⟨w, hw1, hwl, hwx, hwp, hwo, hws, hwa, hwb, hww, hwq⟩ :=
        stop_step ((htw.trans huw) 1 (hw.mono (by omega)))
      obtain ⟨m, r, hcb⟩ := callbackActs_eq (BitVec.ofNat 7 a) (logEvents [.found (BitVec.ofNat 7 a)] w).cb
        (logEvents [.found (BitVec.ofNat 7 a)] w)
      have hf : scanFound (BitVec.ofNat 7 a) t =
          .done () { logEvents [.found (BitVec.ofNat 7 a)] w with mem := m, refused := r } := by
        rw [scanFound, hu, Run.bind_done, hw1, Run.bind_done, runCallback, hcb]
      have hgo : Going s { logEvents [.found (BitVec.ofNat 7 a)] w with mem := m, refused := r } := by
        obtain ⟨h1, h2, h3⟩ := (htq.trans (huq.trans hwq)).1
        exact ⟨⟨h1.cfg, h1.ops, h1.moves, h1.inp, h1.buf, h1.cb, h1.ok, h1.rd, h1.opIndex, h1.faulted⟩, h2, h3⟩
      obtain ⟨z, hz, hzl, hzx, hzp, hzg⟩ := ih (s := { logEvents [.found (BitVec.ofNat 7 a)] w with mem := m, refused := r })
        (a + 1) (as := as) (vs := vs)
        (hws.trans (hus.trans hts)) (hwa.trans (hua.trans hta)) hk' (hwb.trans hub) (by simpa using hn)
        (show WaitsComplete (4 * k) w from (htw.trans (huw.trans hww)) (4 * k) (hw.mono (by omega)))
      refine ⟨z, ?_, ?_, ?_, ?_, closed_ends.trans hgo hzg⟩
      · rw [if_pos rfl, hf, Run.bind_done]; exact hz
      · rw [hzl]; show w.log ++ _ ++ _ = _; rw [hwl, hul, hl]; simp [scanEvents]
      · rw [hzx]; show w.wire ++ scanWire w.owned _ _ _ _ = _; rw [hwo, hwx, hux, hx]; simp [scanWire, readWire]
      · intro _
        cases as with
        | nil =>
          simp at hk'; subst hk'
          simp [scanLoop] at hz; subst hz
          simp [hwp, hwo]
        | cons y ys => simpa [List.getLast?_cons_cons] using hzp (by simp)

end

end Sys2Proof.Machine
end

