-- ==== Sys2Proof/Laws/Peripheral.lean ====
section
/-! SUPPORT. The peripherals under the backends' steps: no step of a primitive sets a field that the spec says reads as
zero or is held 0 (R111, R112, R123, R140). -/

namespace Sys2Proof.Machine

/-! ## The peripherals' reserved fields -/

/-- The reserved fields of the TWI read as the spec says (R111, R112, R140). -/
def TwiReserved (t : TwiRegs) : Prop := t.twcr &&& 0x03#8 = 0#8 ∧ t.twsr &&& 0x04#8 = 0#8

theorem and_three_eq_zero {x : Byte} : x &&& 0x03#8 = 0#8 ↔ x[0] = false ∧ x[1] = false := by
  constructor
  · intro h
    have h0 := congrArg (fun y : Byte => y.getLsbD 0) h
    have h1 := congrArg (fun y : Byte => y.getLsbD 1) h
    exact ⟨by simpa using h0, by simpa using h1⟩
  · rintro ⟨h0, h1⟩
    refine BitVec.eq_of_getLsbD_eq fun i hi => ?_
    interval_cases i <;> simp [h0, h1]

theorem and_four_eq_zero {x : Byte} : x &&& 0x04#8 = 0#8 ↔ x[2] = false := by
  constructor
  · intro h
    have h0 := congrArg (fun y : Byte => y.getLsbD 2) h
    simpa using h0
  · intro h0
    refine BitVec.eq_of_getLsbD_eq fun i hi => ?_
    interval_cases i <;> simp [h0]

theorem setTwiStatus_reserved (code : Byte) {t : TwiRegs} (h : TwiReserved t) : TwiReserved (setTwiStatus code t) := by
  refine ⟨h.1, and_four_eq_zero.2 ?_⟩
  simp [setTwiStatus]

theorem twiStepDone_reserved (code : Byte) {t : TwiRegs} (h : TwiReserved t) : TwiReserved (twiStepDone code t) := by
  refine setTwiStatus_reserved code ⟨and_three_eq_zero.2 ?_, h.2⟩
  have := and_three_eq_zero.1 h.1
  simp [twint, this]

theorem writeTwcr_reserved {v : Byte} (hv : v &&& 0x03#8 = 0#8) {t : TwiRegs} (h : TwiReserved t) :
    TwiReserved (writeTwcr v t) := by
  have hv := and_three_eq_zero.1 hv
  unfold writeTwcr
  dsimp only
  split
  · refine setTwiStatus_reserved _ ⟨and_three_eq_zero.2 ?_, h.2⟩
    simp [twcrWritable, twea, twsta, twsto, twen, twie, twwc, hv]
  · refine ⟨and_three_eq_zero.2 ?_, h.2⟩
    simp [twcrWritable, twea, twsta, twsto, twen, twie, twwc, twint, hv]

theorem writeTwdr_reserved (v : Byte) {t : TwiRegs} (h : TwiReserved t) : TwiReserved (writeTwdr v t) := by
  refine ⟨and_three_eq_zero.2 ?_, h.2⟩
  have := and_three_eq_zero.1 h.1
  unfold writeTwdr
  dsimp only
  split <;> simp [twwc, this]

/-- No backend step of the TWI sets a reserved field. -/
theorem BackendStep.twi_reserved {f : TwiRegs → TwiRegs} {g : UsiRegs → UsiRegs} (h : BackendStep f g) {t : TwiRegs}
    (ht : TwiReserved t) : TwiReserved (f t) := by
  cases h with
  | startIssue => exact writeTwcr_reserved (by decide) ht
  | startDone code e => exact twiStepDone_reserved code ht
  | sendIssue b => exact writeTwcr_reserved (by decide) (writeTwdr_reserved b ht)
  | sendDone code k => exact twiStepDone_reserved code ht
  | readIssue ack => cases ack <;> exact writeTwcr_reserved (by decide) ht
  | readDone v ack => exact twiStepDone_reserved _ (t := { t with twdr := v }) ht
  | stopIssue => exact writeTwcr_reserved (by decide) ht
  | stopDone =>
    refine ⟨and_three_eq_zero.2 ?_, ht.2⟩
    have := and_three_eq_zero.1 ht.1
    simp [twiStopDone, twsto, this]

@[simp] theorem usiCountEdge_usicr (u : UsiRegs) : (usiCountEdge u).usicr = u.usicr := by
  unfold usiCountEdge
  split <;> rfl

@[simp] theorem toggleScl_usicr (line : Bool) (u : UsiRegs) : (toggleScl line u).usicr = u.usicr := rfl

@[simp] theorem usiStrobe_usicr (line : Bool) (u : UsiRegs) : (usiStrobe line u).usicr = u.usicr := by
  unfold usiStrobe
  split <;> simp

/-- A write of `USICR` stores every field but the strobe, whatever the strobe does. -/
@[simp] theorem writeUsicr_usicr (line : Bool) (v : Byte) (u : UsiRegs) : (writeUsicr line v u).usicr = v &&& ~~~usitc := by
  unfold writeUsicr
  split <;> simp [setUsicr]

theorem usiClock_usicr (x : Bool) (u : UsiRegs) : (usiClock x u).usicr = twoWireSw := writeUsicr_usicr _ _ _

theorem usiShift_usicr (xs : List Bool) (u : UsiRegs) : (usiShift xs u).usicr = u.usicr ∨ (usiShift xs u).usicr = twoWireSw := by
  induction xs generalizing u with
  | nil => exact .inl rfl
  | cons x xs ih =>
    unfold usiShift
    dsimp only
    split
    · exact .inr (usiClock_usicr x u)
    · rw [← usiClock_usicr x u]
      rcases ih (usiClock x u) with h | h
      · exact .inr h
      · exact .inr (h.trans (usiClock_usicr x u).symm)

/-- A backend step of the USI leaves `USICR` as it is, or in the two-wire setting (R125). -/
theorem BackendStep.usicr {f : TwiRegs → TwiRegs} {g : UsiRegs → UsiRegs} (h : BackendStep f g) (u : UsiRegs) :
    (g u).usicr = u.usicr ∨ (g u).usicr = twoWireSw := by
  cases h with
  | sendDone code k => 
    refine .inr ?_
    show (usiShift [k] (usiTransferBegin 14#8 _)).usicr = _
    exact (usiShift_usicr _ _).elim (·) (·)
  | readDone v ack =>
    refine .inr ?_
    show (usiShift [true] (usiTransferBegin 14#8 _)).usicr = _
    exact (usiShift_usicr _ _).elim (·) (·)
  | sendIssue b => exact .inr rfl
  | readIssue ack => exact .inr rfl
  | startIssue => exact .inl rfl
  | startDone code e => exact .inl rfl
  | stopIssue => exact .inl rfl
  | stopDone => exact .inl rfl

theorem reservedZero_iff {s : State} : ReservedZero s ↔ TwiReserved s.twi ∧ s.usi.usicr &&& 0xC0#8 = 0#8 := by
  unfold ReservedZero TwiReserved
  tauto

/-- The reserved fields stay as they are. -/
def KeepsReserved (s t : State) : Prop := ReservedZero s → ReservedZero t

theorem giveUp_reserved (s : State) : KeepsReserved s (giveUp s) := by
  unfold giveUp
  split <;> exact id

theorem closed_reserved : Closed KeepsReserved KeepsReserved where
  refl _ := id
  trans h k := k ∘ h
  stuck h k := k ∘ h
  phase _ _ := id
  owned _ _ := id
  cause _ _ := id
  env _ _ := id
  log _ _ := id
  wire _ _ := id
  backend h s := by
    intro hs
    obtain ⟨ht, hu⟩ := reservedZero_iff.1 hs
    refine reservedZero_iff.2 ⟨?_, ?_⟩ <;> unfold onBackend <;> dsimp only <;> split
    · exact h.twi_reserved ht
    · exact ht
    · rcases h.usicr s.usi with e | e <;> rw [e]
      · exact hu
      · decide
    · exact hu
  gives s _ := giveUp_reserved (popWait s)

/-! ## Initialisation (R152) -/

theorem initTwi_ready (t : TwiRegs) : TwiReady (initTwi t) := by
  refine ⟨rfl, ?_, BitVec.eq_of_getLsbD_eq fun i hi => ?_⟩
  · refine BitVec.eq_of_getLsbD_eq fun i hi => ?_
    interval_cases i <;> simp [initTwi, writeTwcr, writeTwsr, twen, twint]
  · interval_cases i <;> simp [initTwi, writeTwcr, writeTwsr, twen, twint, twcrWritable, twea, twsta, twsto, twie, twwc]

theorem initUsi_ready (u : UsiRegs) : UsiReady (initUsi u) := by
  refine ⟨rfl, rfl, ?_, ?_⟩
  · simp [masterScl, initUsi, setUsicr, usiWireMode, twoWireSw, usitc]
  · simp [masterSda, initUsi, setUsicr]

/-- After initialisation the premise `INIT_DONE` holds, whichever backend is compiled in. -/
theorem initBackend_initDone (s : State) : InitDone (initBackend s) := by
  unfold InitDone initBackend onBackend
  dsimp only
  cases h : s.cfg.backend
  · exact initTwi_ready s.twi
  · exact initUsi_ready s.usi

end Sys2Proof.Machine
end

