-- ==== Sys2Proof/Laws/Scan.lean ====
section
/-! SUPPORT. What a scan's callback does to the caller's memory and the mark `refused`, and that a scan runs it for the
addresses it logs `FOUND` and for no other (R93, R149). -/

namespace Sys2Proof.Machine

theorem byteAfter_append (a : Nat) (old : Byte) (xs ys : List (Nat × Byte)) :
    byteAfter a old (xs ++ ys) = byteAfter a (byteAfter a old xs) ys := by
  induction xs generalizing old with
  | nil => rfl
  | cons x xs ih => exact ih _

theorem foundAddrs_append (es fs : List Event) : foundAddrs (es ++ fs) = foundAddrs es ++ foundAddrs fs := by
  simp [foundAddrs]

theorem mem_foundAddrs {a : Addr7} {es : List Event} (h : Event.found a ∈ es) : a ∈ foundAddrs es :=
  List.mem_filterMap.2 ⟨_, h, rfl⟩

/-- What the callback's acts for an address do: its stores for that address in order, the mark `refused` where it issues an
operation for it, and nothing else. -/
theorem callbackActs_effect (a : Addr7) (acts : Callback) (s : State) :
    (∀ b, (∀ v, (a, .store b v) ∉ acts) → (callbackActs a acts s).mem.read b = s.mem.read b) ∧
    (Memory.wf s.mem → Memory.wf (callbackActs a acts s).mem ∧
      ∀ b, (callbackActs a acts s).mem.read b = byteAfter b (s.mem.read b) (callbackStores a acts)) ∧
    ((callbackActs a acts s).refused = true ↔ s.refused = true ∨ ∃ w, (a, .issue w) ∈ acts) ∧
    (callbackActs a acts s).log = s.log ∧ (callbackActs a acts s).cb = s.cb := by
  induction acts generalizing s with
  | nil => exact ⟨fun _ _ => rfl, fun h => ⟨h, fun _ => rfl⟩, by simp [callbackActs], rfl, rfl⟩
  | cons x rest ih =>
    obtain ⟨y, act⟩ := x
    rw [callbackActs]
    by_cases hy : y = a
    · subst hy
      rw [if_pos rfl]
      obtain ⟨hm, hw, hr, hl, hc⟩ := ih (callbackAct act s)
      cases act with
      | store c v =>
        refine ⟨fun b hb => ?_, fun h => ?_, ?_, hl, hc⟩
        · rw [hm b fun v hv => hb v (by simp [hv])]
          exact Memory.read_write_other _ _ (by rintro rfl; exact hb v (by simp))
        · obtain ⟨hwf, hread⟩ := hw (Memory.write_wf h c v)
          refine ⟨hwf, fun b => ?_⟩
          rw [hread b]
          simp only [callbackStores, List.filterMap_cons, if_true]
          show _ = byteAfter b (if c = b then v else _) _
          congr 1
          split
          · next e => subst e; exact Memory.read_write_same h _ _
          · next e => exact Memory.read_write_other _ _ (Ne.symm e)
        · rw [hr]; simp [callbackAct, storeByte]
      | issue w =>
        refine ⟨fun b hb => hm b fun v hv => hb v (by simp [hv]), fun h => ?_, ?_, hl, hc⟩
        · simpa [callbackStores, callbackAct] using hw h
        · rw [hr]; simp [callbackAct]
    · rw [if_neg hy]
      obtain ⟨hm, hw, hr, hl, hc⟩ := ih s
      refine ⟨fun b hb => hm b fun v hv => hb v (by simp [hv]), fun h => ⟨(hw h).1, fun b => ?_⟩, ?_, hl, hc⟩
      · rw [(hw h).2 b]; congr 1
        cases act <;> simp [callbackStores, hy]
      · rw [hr]; simp [Ne.symm hy]

/-! ## No primitive logs `FOUND` -/

/-- The log grows, and by no `FOUND`. -/
def NoFound (s t : State) : Prop := ∃ es, t.log = s.log ++ es ∧ foundAddrs es = []

theorem NoFound.of_eq {s t : State} (h : t.log = s.log) : NoFound s t := ⟨[], by simp [h], rfl⟩

theorem NoFound.trans {s t u : State} (h : NoFound s t) (k : NoFound t u) : NoFound s u := by
  obtain ⟨es, h, h'⟩ := h
  obtain ⟨fs, k, k'⟩ := k
  exact ⟨es ++ fs, by rw [k, h, List.append_assoc], by rw [foundAddrs_append, h', k']; rfl⟩

theorem NoFound.giveUp (s : State) : NoFound s (giveUp s) := by
  unfold Sys2Proof.Machine.giveUp
  split
  · exact .of_eq rfl
  · exact ⟨[.hang], rfl, rfl⟩

theorem noFound_wait (s : State) : (wait s).Within NoFound NoFound s := by
  unfold wait
  split
  · exact NoFound.of_eq rfl
  · exact NoFound.trans (NoFound.of_eq rfl) (NoFound.giveUp _)

/-- A relation that composes carries over a sequence. -/
theorem within_seq {α β : Type} {R : State → State → Prop} (hR : ∀ {s t u}, R s t → R t u → R s u) {s : State} {r : Run α}
    {f : α → State → Run β} (h : r.Within R R s) (hf : ∀ a t, (f a t).Within R R t) : (r.bind f).Within R R s :=
  Run.Post.bind h (fun _ h => h) fun a t ht => (hf a t).imp (fun _ _ h => hR ht h) fun _ h => hR ht h

/-- A body that begins with a `Wait()`, from a state before it. -/
theorem noFound_after_wait {α : Type} {s x : State} {f : Unit → State → Run α} (hx : NoFound s x)
    (hf : ∀ t, (f () t).Within NoFound NoFound t) : ((wait x).bind f).Within NoFound NoFound s :=
  (within_seq (R := NoFound) NoFound.trans (noFound_wait x) fun _ t => hf t).imp (fun _ _ h => hx.trans h) fun _ h => hx.trans h

theorem noFound_bodyStop (s : State) : (bodyStop s).Within NoFound NoFound s :=
  noFound_after_wait ⟨[.stop], rfl, rfl⟩ fun _ => NoFound.of_eq rfl

theorem noFound_bodyRead (s : State) : (bodyRead false s).Within NoFound NoFound s :=
  noFound_after_wait (.of_eq rfl) fun t => ⟨[.read (nextByte t), .nak], rfl, rfl⟩

theorem noFound_addressPhase (d : Addr7) (dir : Dir) (s : State) : (addressPhase d dir s).Within NoFound NoFound s := by
  refine noFound_after_wait (.of_eq rfl) fun t => ?_
  unfold addressDone
  dsimp only
  split
  · exact ⟨[.addrAck], by simp, rfl⟩
  · exact ⟨[.addrNak], by simp, rfl⟩

theorem noFound_callStart (d : Addr7) (dir : Dir) (s : State) : (callStart d dir s).Within NoFound NoFound s := by
  refine noFound_after_wait ⟨[.start d dir], rfl, rfl⟩ fun t => ?_
  split
  · exact (noFound_addressPhase d dir _).imp (fun _ _ h => NoFound.trans (.of_eq rfl) h) fun _ h => NoFound.trans (.of_eq rfl) h
  · exact ⟨[.startFail], by simp [startFailed], rfl⟩

/-! ## A scan -/

/-- What a part of a scan has done: for the events `es` it logged, the callback's acts for the addresses `FOUND` among them
and no other are done. -/
structure CallbackRan (s t : State) : Prop where
  cb : t.cb = s.cb
  acts : ∃ es, t.log = s.log ++ es ∧
    (∀ a, (∀ x v, .found x ∈ es → (x, .store a v) ∉ s.cb) → t.mem.read a = s.mem.read a) ∧
    (Memory.wf s.mem → Memory.wf t.mem ∧ ∀ a, t.mem.read a =
      byteAfter a (s.mem.read a) ((foundAddrs es).flatMap fun x => callbackStores x s.cb)) ∧
    (t.refused = true ↔ s.refused = true ∨ ∃ x w, .found x ∈ es ∧ (x, .issue w) ∈ s.cb)

theorem CallbackRan.refl (s : State) : CallbackRan s s :=
  ⟨rfl, [], by simp, fun _ _ => rfl, fun h => ⟨h, fun _ => rfl⟩, by simp⟩

theorem CallbackRan.trans {s t u : State} (h : CallbackRan s t) (k : CallbackRan t u) : CallbackRan s u := by
  obtain ⟨hc, es, hl, hm, hw, hr⟩ := h
  obtain ⟨kc, fs, kl, km, kw, kr⟩ := k
  rw [hc] at km kw kr
  refine ⟨kc.trans hc, es ++ fs, by rw [kl, hl, List.append_assoc], fun a ha => ?_, fun h => ?_, ?_⟩
  · rw [km a fun x v hx => ha x v (by simp [hx]), hm a fun x v hx => ha x v (by simp [hx])]
  · refine ⟨(kw (hw h).1).1, fun a => ?_⟩
    rw [(kw (hw h).1).2, (hw h).2, ← byteAfter_append, foundAddrs_append, List.flatMap_append]
  · rw [kr, hr]
    simp only [List.mem_append]
    constructor
    · rintro ((h | ⟨x, w, h, h'⟩) | ⟨x, w, h, h'⟩)
      exacts [.inl h, .inr ⟨x, w, .inl h, h'⟩, .inr ⟨x, w, .inr h, h'⟩]
    · rintro (h | ⟨x, w, h | h, h'⟩)
      exacts [.inl (.inl h), .inl (.inr ⟨x, w, h, h'⟩), .inr ⟨x, w, h, h'⟩]

/-- A part that logs no `FOUND` and leaves memory and the mark alone runs no callback. -/
theorem CallbackRan.of_noFound {s t : State} (h : NoFound s t) (hm : SameMem s t) (hc : t.cb = s.cb) : CallbackRan s t := by
  obtain ⟨es, hl, hf⟩ := h
  refine ⟨hc, es, hl, fun _ _ => by rw [hm.1], fun hw => ⟨by rwa [hm.1], fun a => by rw [hf, hm.1]; rfl⟩, ?_⟩
  rw [hm.2]
  refine ⟨.inl, ?_⟩
  rintro (h | ⟨x, w, h, -⟩)
  · exact h
  · simpa [hf] using mem_foundAddrs h

/-- `FOUND(a)` and the callback called with `a`. -/
theorem callbackRan_found (a : Addr7) (s : State) : CallbackRan s (runCallback a (logEvents [.found a] s)) := by
  obtain ⟨hm, hw, hr, hl, hc⟩ := callbackActs_effect a s.cb (logEvents [.found a] s)
  refine ⟨hc, [.found a], hl, fun b hb => hm b fun v => hb a v (by simp), fun h => ?_, hr.trans (by simp)⟩
  rw [runCallback]
  simpa [foundAddrs] using hw h

theorem callbackRan_of {α : Type} {s : State} {r : Run α} (h : r.Within NoFound NoFound s)
    (h' : r.Within (fun s t => Going s t ∧ SameMem s t) (fun s t => Stuck s t ∧ SameMem s t) s) :
    r.Within CallbackRan CallbackRan s := by
  cases r with
  | done a t => exact CallbackRan.of_noFound h h'.2 h'.1.1.cb
  | halt t => exact CallbackRan.of_noFound h h'.2 h'.1.1.cb

/-- A scan, whole or cut short by a `Wait()`, runs the callback for the addresses it logs `FOUND` and for no other. -/
theorem callbackRan_scanLoop (k a : Nat) (s : State) : (scanLoop k a s).Within CallbackRan CallbackRan s := by
  have C := closed_ends.and closed_mem
  induction k generalizing a s with
  | zero => exact CallbackRan.refl s
  | succ k ih =>
    refine within_seq (R := CallbackRan) CallbackRan.trans (callbackRan_of (noFound_callStart _ _ s) (C.bodyStart _ _ _ s)) fun ok t =>
      within_seq (R := CallbackRan) CallbackRan.trans ?_ fun _ u => ih _ u
    split
    · exact within_seq (R := CallbackRan) CallbackRan.trans (callbackRan_of (noFound_bodyRead t) (C.bodyRead _ t)) fun _ u =>
        within_seq (R := CallbackRan) CallbackRan.trans (callbackRan_of (noFound_bodyStop u) (C.bodyStop u)) fun _ v => callbackRan_found _ v
    · exact CallbackRan.refl t

end Sys2Proof.Machine
end

