-- ==== Sys2Proof/Tests/Slice0.lean ====
section
/-! SUPPORT. The model's own tests: expected values from the spec's examples and vectors (R72, 95_test_vectors.md), and for
every statement with hypotheses a concrete state that meets them together. -/

namespace Sys2Proof.Tests

open Sys2Proof Sys2Proof.Machine

/-! ## What the tests are built from -/

/-- What holds of the next state an answer gives. -/
def after (r : Answer State) (p : State → Bool) : Bool :=
  match r with
  | .next t => p t
  | .fault _ => false
  | .refused _ => false

theorem exists_next {r : Answer State} {p : State → Prop} [DecidablePred p] (h : after r (fun t => decide (p t)) = true) :
    ∃ t, r = .next t ∧ p t := by
  cases r with
  | next t => exact ⟨t, rfl, of_decide_eq_true h⟩
  | fault _ => cases h
  | refused _ => cases h

/-- The refusal an answer is, if it is one. -/
def refusalOfAnswer (r : Answer State) : Option Refusal :=
  match r with
  | .next _ => none
  | .fault _ => none
  | .refused x => some x

/-- The fault an answer is, if it is one. -/
def faultOfAnswer (r : Answer State) : Option Fault :=
  match r with
  | .next _ => none
  | .fault x => some x
  | .refused _ => none

/-- `ACK_ALL(vs)` of 95_test_vectors.md, for one operation: every `Wait()` completes at its first poll. -/
def ackAll (vs : List Byte) : Env :=
  { startConds := List.replicate 4 true, acks := List.replicate 8 true, bytes := vs, ownedAfterFails := [false],
    waits := List.replicate 12 (some 0), whys := [], draws := 0 }

/-- The reset state with the backend and the environment given. -/
def run0 (env : Env) : State :=
  { State.reset with
    cfg := { backend := .hardwareTwi, waitBound := none, wbPropagateDataNak := false, wrmContinueAfterNak := false },
    env := env }

/-- The master holds the bus, in a phase. -/
def held (p : Phase) (env : Env) : State := { run0 env with phase := p, owned := true }

/-- A buffer of three bytes, holding `[1, 2, 3]`. -/
def withBuf (s : State) : State := { s with buf := { base := 16, len := 3 }, mem := [(16, 1#8), (17, 2#8), (18, 3#8)] }

/-! ## Well-formedness: each check refuses a term -/

theorem test_wellFormed_writeBytes : (Instr.writeBytes 0x50 256 true).wellFormed = false := by decide
theorem test_wellFormed_readBytes : (Instr.readBytes 0x50 256 true).wellFormed = false := by decide
theorem test_wellFormed_writeRegisterMulti : (Instr.writeRegisterMulti 0x50 0 256).wellFormed = false := by decide
theorem test_wellFormed_readRegisterMulti : (Instr.readRegisterMulti 0x50 0 256).wellFormed = false := by decide
theorem test_wellFormed_count_255 : (Instr.writeBytes 0x7F 255 false).wellFormed = true := by decide
theorem test_line_device : (AsmLine.start 0x80 .W).wellFormed = false := by decide
theorem test_line_byte : (AsmLine.writeDevice 0x100).wellFormed = false := by decide
theorem test_line_register : (AsmLine.readRegister 0x50 0x100).wellFormed = false := by decide
theorem test_line_data : (AsmLine.writeRegister 0x50 0 0x100).wellFormed = false := by decide
theorem test_line_count : (AsmLine.readBytes 0x50 256 none).wellFormed = false := by decide
theorem test_line_sendStop : (AsmLine.writeBytes 0x50 1 (some 2)).wellFormed = false := by decide
theorem test_line_multi : (AsmLine.readRegisterMulti 0x50 0 256).wellFormed = false ∧
    (AsmLine.writeRegisterMulti 0x80 0 1).wellFormed = false := by decide

/-! ## Decoding: words written out from R61 and R71, and the vectors V1..V28 -/

/-- `start 0x50, W`, bit by bit: OP 0001, SS 0, RSV 000, DEV 1010000, DIR 0, A and B zero. -/
theorem test_decode_start : decode 0b00010000101000000000000000000000#32 = .ok (.start 0x50 .W) := by decide
theorem test_decode_start_read : decode 0x10FF0000#32 = .ok (.start 0x7F .R) := by decide
/-- `repeatStart 0x68, R` (V5). -/
theorem test_decode_repeatStart : decode 0b00100000110100010000000000000000#32 = .ok (.repeatStart 0x68 .R) := by decide
theorem test_decode_stop : decode 0x30000000#32 = .ok .stop := by decide
theorem test_decode_writeDevice : decode 0b01000000000000000000000000010000#32 = .ok (.writeDevice 0x10) := by decide
theorem test_decode_reads : decode 0x50000000#32 = .ok .readDeviceWithAck ∧ decode 0x60000000#32 = .ok .readDeviceWithNak := by
  decide
/-- V7 and V8. -/
theorem test_decode_writeBytes : decode 0b10000000101000000000000000000001#32 = .ok (.writeBytes 0x50 1 false) ∧
    decode 0x88A00000#32 = .ok (.writeBytes 0x50 0 true) := by decide
/-- V9. -/
theorem test_decode_readBytes : decode 0b10011000101000000000000000000011#32 = .ok (.readBytes 0x50 3 true) := by decide
/-- V12. -/
theorem test_decode_writeRegister : decode 0b10100000101000100000001000000011#32 = .ok (.writeRegister 0x51 0x02 0x03) := by
  decide
/-- V10. -/
theorem test_decode_writeRegisterMulti : decode 0b10110000110100000000011100000000#32 = .ok (.writeRegisterMulti 0x68 0x07 0) := by
  decide
/-- V13. -/
theorem test_decode_readRegister : decode 0b11000000101000100001000000000000#32 = .ok (.readRegister 0x51 0x10) := by decide
/-- V11. -/
theorem test_decode_readRegisterMulti : decode 0b11010000110100000111010100000001#32 = .ok (.readRegisterMulti 0x68 0x75 1) := by
  decide
theorem test_decode_scanBus : decode 0xE0000000#32 = .ok .scanBus := by decide
/-- V14..V20. -/
theorem test_decode_illegal : decode 0x00000000#32 = .error .illegalEncoding ∧ decode 0x70000000#32 = .error .illegalEncoding ∧
    decode 0xF0000000#32 = .error .illegalEncoding ∧ decode 0x30000001#32 = .error .illegalEncoding ∧
    decode 0x18A00000#32 = .error .illegalEncoding ∧ decode 0x10A00001#32 = .error .illegalEncoding ∧
    decode 0x20A00100#32 = .error .illegalEncoding := by
  refine ⟨?_, ?_, ?_, ?_, ?_, ?_, ?_⟩ <;> decide
/-- V21..V28. -/
theorem test_decode_illegal_fields : decode 0x1FFF0000#32 = .error .illegalEncoding ∧ decode 0x40000100#32 = .error .illegalEncoding ∧
    decode 0x50000001#32 = .error .illegalEncoding ∧ decode 0xA0A110AB#32 = .error .illegalEncoding ∧
    decode 0x81A00003#32 = .error .illegalEncoding ∧ decode 0x90A10002#32 = .error .illegalEncoding ∧
    decode 0xC0A010FF#32 = .error .illegalEncoding ∧ decode 0xE0000001#32 = .error .illegalEncoding := by
  refine ⟨?_, ?_, ?_, ?_, ?_, ?_, ?_, ?_⟩ <;> decide
/-- R72's words, assembled. -/
theorem test_assemble : assembleWord (.writeBytes 0x50 3 none) = some 0x88A00003#32 ∧
    assembleWord (.readBytes 0x50 2 (some 0)) = some 0x90A00002#32 ∧
    assembleWord (.writeRegisterMulti 0x68 0x00 7) = some 0xB0D00007#32 := by decide
theorem test_parseLine : parseLine [.name "readBytes", .num 0x50, .name "buf", .num 2] = some (.readBytes 0x50 2 none) := by decide

/-! ## One step each: the vectors of 95_test_vectors.md -/

/-- V29. -/
theorem test_start : after (exec (.start 0x50 .W) (run0 (ackAll []))) (fun t => t.phase = .tx ∧ t.owned = true ∧
    t.ok = some true ∧ t.opIndex = 1 ∧ t.log = [.start 0x50 .W, .addrAck]) = true := by decide
/-- V34: a failed start condition, the bus still owned. -/
theorem test_start_fail : after (exec (.start 0x50 .W) (run0 { ackAll [] with startConds := [false], ownedAfterFails := [true] }))
    (fun t => t.phase = .startFail ∧ t.owned = true ∧ t.ok = some false ∧ t.cause = .startFail) = true := by decide
/-- V35: `repeatStart` on a bus that is not owned drives `S`. -/
theorem test_repeatStart : after (exec (.repeatStart 0x50 .W) (run0 (ackAll []))) (fun t => t.wire.head? = some WireSym.S ∧
    t.log = [.rstart 0x50 .W, .addrAck]) = true := by decide
/-- R78's example: from `Tx` the wire shows `Sr`, and the phase is `Rx`. -/
theorem test_repeatStart_owned : after (exec (.repeatStart 0x50 .R) (held .tx (ackAll []))) (fun t => t.phase = .rx ∧
    t.wire = [WireSym.Sr, .M true, .M false, .M true, .M false, .M false, .M false, .M false, .M true, .T false]) = true := by
  decide
/-- V39a. -/
theorem test_stop : after (exec .stop (run0 (ackAll []))) (fun t => t.phase = .idle ∧ t.owned = false ∧ t.ok = none ∧
    t.log = [.stop] ∧ t.wire = [WireSym.P]) = true := by decide
/-- V69: a `stop` whose wait never completes. -/
theorem test_stop_blocked : after (exec .stop (run0 { ackAll [] with waits := [none] })) (fun t => t.inOp = true ∧
    t.opIndex = 0 ∧ t.log = [.stop] ∧ faultOfAnswer (step t) = some .blocked) = true := by decide
/-- V37, its first write. -/
theorem test_writeDevice : after (exec (.writeDevice 0x10) (held .tx { ackAll [] with acks := [false] })) (fun t => t.phase = .tx ∧
    t.ok = some false ∧ t.cause = .dataNak ∧ t.log = [.write 0x10, .nak]) = true := by decide
/-- V38. -/
theorem test_readDeviceWithAck : after (exec .readDeviceWithAck (held .rx (ackAll [0x3C, 0xA5]))) (fun t => t.phase = .rx ∧
    t.rd = some 0x3C ∧ t.log = [.read 0x3C, .ack] ∧ t.ok = none) = true := by decide
theorem test_readDeviceWithNak : after (exec .readDeviceWithNak (held .rx (ackAll [0xA5]))) (fun t => t.phase = .rxEnd ∧
    t.rd = some 0xA5 ∧ t.log = [.read 0xA5, .nak] ∧ t.wire.getLast? = some (.M true)) = true := by decide
/-- V44: the reference result after a data NAK. -/
theorem test_writeBytes : after (exec (.writeBytes 0x50 3 true) (withBuf (run0 { ackAll [] with acks := [true, false] })))
    (fun t => t.ok = some true ∧ t.cause = .dataNak ∧ t.log = [.start 0x50 .W, .addrAck, .write 1, .nak, .stop]) = true := by
  decide
/-- V46: no stop, the bus held. -/
theorem test_writeBytes_no_stop : after (exec (.writeBytes 0x50 3 false) (withBuf (run0 { ackAll [] with acks := [true, true, false] })))
    (fun t => t.phase = .tx ∧ t.owned = true ∧ t.log = [.start 0x50 .W, .addrAck, .write 1, .ack, .write 2, .nak]) = true := by
  decide
/-- V49. -/
theorem test_readBytes : after (exec (.readBytes 0x50 3 true) (withBuf (run0 (ackAll [0x11, 0x22, 0x33])))) (fun t =>
    t.mem = [(16, 0x11#8), (17, 0x22#8), (18, 0x33#8)] ∧ t.rd = none ∧ t.log =
      [.start 0x50 .R, .addrAck, .read 0x11, .ack, .read 0x22, .ack, .read 0x33, .nak, .stop]) = true := by decide
/-- V51. -/
theorem test_readBytes_zero : refusalOfAnswer (exec (.readBytes 0x50 0 true) (run0 (ackAll []))) = some .zeroCount := by decide
/-- V52, X1: the log as text. -/
theorem test_writeRegister : after (exec (.writeRegister 0x50 0x10 0xAB) (run0 (ackAll []))) (fun t => t.ok = some true ∧
    logText t.log = "START(0x50,W) ADDR-ACK WRITE(0x10) ACK WRITE(0xAB) ACK STOP") = true := by decide
/-- V53a: `v` skipped, the stop sent. -/
theorem test_writeRegister_nak : after (exec (.writeRegister 0x50 0x10 0xAB) (run0 { ackAll [] with acks := [true, false] }))
    (fun t => t.ok = some false ∧ t.phase = .idle ∧ t.log = [.start 0x50 .W, .addrAck, .write 0x10, .nak, .stop]) = true := by
  decide
/-- V60: break at the NAK. -/
theorem test_writeRegisterMulti : after (exec (.writeRegisterMulti 0x68 0x00 3)
    (withBuf (run0 { ackAll [] with acks := [true, true, false] }))) (fun t => t.ok = some false ∧
      t.log = [.start 0x68 .W, .addrAck, .write 0x00, .ack, .write 1, .nak, .stop]) = true := by decide
/-- V61: the loop goes on under `WRM_CONTINUE_AFTER_NAK`. -/
theorem test_writeRegisterMulti_continue : after (exec (.writeRegisterMulti 0x68 0x00 3)
    { withBuf (run0 { ackAll [] with acks := [true, true, false, true, true] }) with
      cfg := { backend := .usiTwi, waitBound := none, wbPropagateDataNak := false, wrmContinueAfterNak := true } })
    (fun t => t.ok = some false ∧ t.cause = .none ∧ t.log = [.start 0x68 .W, .addrAck, .write 0x00, .ack, .write 1, .nak,
      .write 2, .ack, .write 3, .ack, .stop]) = true := by decide
/-- V54: no stop after a NAK of `r`, `RD` unwritten. -/
theorem test_readRegister_nak : after (exec (.readRegister 0x50 0x10) { run0 { ackAll [] with acks := [true, false] } with rd := some 7 })
    (fun t => t.phase = .tx ∧ t.owned = true ∧ t.ok = some false ∧ t.rd = none ∧
      t.log = [.start 0x50 .W, .addrAck, .write 0x10, .nak]) = true := by decide
/-- V56's operation on the wire (R102 to R106): `S`, the address with W, the register, `Sr`, the address with R, the byte with
the master's NAK, `P`. -/
theorem test_readRegister_wire : after (exec (.readRegister 0x50 0x10) (run0 (ackAll [0x42]))) (fun t => t.wire =
    [.S, .M true, .M false, .M true, .M false, .M false, .M false, .M false, .M false, .T false,
     .M false, .M false, .M false, .M true, .M false, .M false, .M false, .M false, .T false,
     .Sr, .M true, .M false, .M true, .M false, .M false, .M false, .M false, .M true, .T false,
     .T false, .T true, .T false, .T false, .T false, .T false, .T true, .T false, .M true, .P]) = true := by decide
/-- V56, X6. -/
theorem test_readRegister : after (exec (.readRegister 0x50 0x10) (run0 (ackAll [0x42]))) (fun t => t.rd = some 0x42 ∧
    t.phase = .idle ∧ t.log = [.start 0x50 .W, .addrAck, .write 0x10, .ack, .rstart 0x50 .R, .addrAck, .read 0x42, .nak, .stop]) =
      true := by decide
/-- V62a. -/
theorem test_readRegisterMulti : after (exec (.readRegisterMulti 0x68 0x00 2) (withBuf (run0 (ackAll [0x12, 0x34])))) (fun t =>
    t.ok = some true ∧ t.rd = none ∧ t.mem = [(16, 0x12#8), (17, 0x34#8), (18, 3#8)]) = true := by decide
/-- V62d: the buffer unchanged after a failure. -/
theorem test_readRegisterMulti_nak : after (exec (.readRegisterMulti 0x68 0x00 2)
    (withBuf (run0 { ackAll [] with acks := [true, false] }))) (fun t => t.ok = some false ∧ t.phase = .tx ∧
      t.mem = [(16, 1#8), (17, 2#8), (18, 3#8)]) = true := by decide

/-- The environment of one scan, every `Wait()` completing: the devices at the addresses given answer. -/
def scanEnv (present : Nat → Bool) : Env :=
  { startConds := List.replicate 126 true, acks := (List.range 126).map fun i => present (i + 1),
    bytes := List.replicate 126 0xFF#8, ownedAfterFails := [], waits := List.replicate 504 (some 0), whys := [], draws := 0 }

/-- V63: devices at 0x01 and 0x7E. -/
theorem test_scanBus : after (exec .scanBus (run0 (scanEnv fun a => a == 1 || a == 126))) (fun t => t.phase = .idle ∧
    t.owned = false ∧ t.log.length = 260 ∧ t.log.take 6 = [.start 0x01 .R, .addrAck, .read 0xFF, .nak, .stop, .found 0x01]) =
      true := by decide +kernel

/-! ## For every statement with hypotheses, a state and operands that meet them -/

/-- Waits that complete at once, as many as are asked for, with no bound. -/
theorem waits_replicate {k n : Nat} {s : State} (h : k ≤ n) (hw : s.env.waits = List.replicate n (some 0))
    (hb : s.cfg.waitBound = none) : WaitsComplete k s := by
  refine ⟨by simpa [hw] using h, fun w hm => ?_⟩
  rw [hw] at hm
  obtain rfl := (List.mem_replicate.1 (List.mem_of_mem_take hm)).2
  rw [hb]; rfl

/-- The caller's list holds one operation, with the buffer of `withBuf`. -/
def issuing (w : Word32) (s : State) : State := { s with ops := [{ word := w, buf := { base := 16, len := 3 }, cb := [] }] }

theorem witness_DecodeOfEncode : (Instr.writeRegisterMulti 0x7F 0xFF 255).wellFormed = true := by decide
theorem witness_EncodeOfDecode : decode 0x98A000FF#32 = .ok (.readBytes 0x50 255 true) := by decide
/-- Both sides of every range of `AssemblyOfLines`: the largest operands, and the first ones out of range. -/
theorem witness_AssemblyOfLines : assembleWord (.start 127 .R) = some 0x10FF0000#32 ∧ assembleWord (.start 128 .R) = none ∧
    assembleWord (.writeRegister 127 255 255) = some 0xA0FEFFFF#32 ∧ assembleWord (.writeRegister 127 256 255) = none ∧
    assembleWord (.readBytes 127 255 (some 1)) = some 0x98FE00FF#32 ∧ assembleWord (.readBytes 127 256 (some 1)) = none ∧
    assembleWord (.readBytes 127 255 (some 2)) = none := by decide
/-- The three clauses. -/
theorem witness_StepRunsDecodedOperation :
    (Ready (issuing 0x30000000#32 (run0 (ackAll []))) ∧ dueMove (issuing 0x30000000#32 (run0 (ackAll []))) = none ∧
      decode 0x30000000#32 = .ok .stop) ∧
    (Ready (issuing 0x30000001#32 (run0 (ackAll []))) ∧ dueMove (issuing 0x30000001#32 (run0 (ackAll []))) = none ∧
      decode 0x30000001#32 = .error .illegalEncoding) ∧
    (Ready (run0 (ackAll [])) ∧ dueMove (run0 (ackAll [])) = none ∧ (run0 (ackAll [])).ops.length ≤ (run0 (ackAll [])).opIndex) := by
  decide
theorem witness_StepRunsPlacedWord : Ready State.reset ∧ decodeTableWord 32 0xE0000000 = some .scanBus := by
  exact ⟨⟨rfl, rfl⟩, by decide⟩
/-- An operation that returns, and one that does not. -/
theorem witness_OpIndexAdvancesByOne : (∃ t, exec .stop (run0 (ackAll [])) = .next t ∧ Returned t) ∧
    ∃ t, exec .stop (run0 { ackAll [] with waits := [none] }) = .next t ∧ ¬Returned t :=
  ⟨exists_next (by decide), exists_next (by decide)⟩

/-- A run under a bound of five polls. -/
def bounded (env : Env) : State :=
  { run0 env with
    cfg := { backend := .usiTwi, waitBound := some 5, wbPropagateDataNak := false, wrmContinueAfterNak := false } }

/-- A wait of six polls hangs under a bound of five (V66's shape), one of five does not; and a wait that never completes,
with no bound. -/
theorem witness_HungIsTerminal :
    (∃ t, exec (.start 0x50 .W) (bounded { ackAll [] with waits := [some 6] }) = .next t ∧ t.hung = true) ∧
    (∃ t, exec (.start 0x50 .W) (bounded { ackAll [] with waits := [some 5, some 5] }) = .next t ∧ Returned t) ∧
    ({ run0 (ackAll []) with hung := true } : State).hung = true ∧
    ∃ t, exec .stop (run0 { ackAll [] with waits := [none] }) = .next t ∧ t.inOp = true :=
  ⟨exists_next (by decide), exists_next (by decide), rfl, exists_next (by decide)⟩

/-- The clauses of `HungIsTerminal` about a hung or blocked primitive: the first `Wait()` not complete, with the bound and
without one, for each of the six; the second not complete. -/
theorem witness_HungIsTerminal_phase :
    (Ready (bounded { ackAll [] with waits := [some 6] }) ∧
      waitCompletes { bounded { ackAll [] with waits := [some 6] } with log := [Event.start 0x50 .W] } = false ∧
      waitCompletes { run0 { ackAll [] with waits := [none] } with log := [Event.rstart 0x50 .R] } = false ∧
      waitCompletes { run0 { ackAll [] with waits := [none] } with log := [Event.stop] } = false) ∧
    (waitCompletes { held .tx { ackAll [] with waits := [none] } with log := [Event.write 1] } = false ∧
      (admittingPhases (.writeDevice 1)).contains .tx) ∧
    (waitCompletes (held .rx { ackAll [] with waits := [none] }) = false ∧
      (admittingPhases .readDeviceWithAck).contains .rx ∧ (admittingPhases .readDeviceWithNak).contains .rx) ∧
    ((bounded { ackAll [] with waits := [some 5, some 6] }).env.waits = some 5 :: some 6 :: [] ∧
      inBound (some 5) (some 5) = true ∧ inBound (some 5) (some 6) = false ∧ inBound none (some 5) = true ∧
      inBound none none = false) := by decide
/-- V66 and V67: `owned` alone tells them apart, the log does not. -/
theorem test_hang_first_and_second_wait :
    after (exec (.start 0x50 .W) (bounded { ackAll [] with waits := [some 6] })) (fun t => t.hung = true ∧ t.phase = .idle ∧
      t.owned = false ∧ t.log = [.start 0x50 .W, .hang] ∧ t.ok = none ∧ t.opIndex = 0) = true ∧
    after (exec (.start 0x50 .W) (bounded { ackAll [] with waits := [some 5, some 6] })) (fun t => t.hung = true ∧
      t.phase = .idle ∧ t.owned = true ∧ t.log = [.start 0x50 .W, .hang] ∧ t.opIndex = 0) = true := by decide

/-- The conditions of `CompletesWhenWaitsComplete`. -/
def MayComplete (i : Instr) (s : State) : Prop :=
  Ready s ∧ s.phase ∈ admittingPhases i ∧ readsNoByte i = false ∧ bufferNeed i ≤ s.buf.len ∧ EnvCompletes (waitsOf i) s

/-- A state with 504 completing waits, in a phase, with the buffer of `withBuf`. -/
def patient (p : Phase) : State := withBuf { held p (scanEnv fun _ => true) with owned := decide (p ≠ .idle) }

theorem mayComplete_of {i : Instr} {p : Phase} (h : p ∈ admittingPhases i ∧ readsNoByte i = false ∧ bufferNeed i ≤ 3 ∧ waitsOf i ≤ 504) :
    MayComplete i (patient p) :=
  ⟨⟨rfl, rfl⟩, h.1, h.2.1, h.2.2.1, (waits_replicate h.2.2.2 rfl rfl).envCompletes⟩

/-- Every operation completes somewhere: the conditions are met for each of the thirteen. -/
theorem witness_Completes_start : MayComplete (.start 0x50 .W) (patient .idle) := mayComplete_of (by decide)
theorem witness_Completes_repeatStart : MayComplete (.repeatStart 0x50 .R) (patient .tx) := mayComplete_of (by decide)
theorem witness_Completes_stop : MayComplete .stop (patient .rxEnd) := mayComplete_of (by decide)
theorem witness_Completes_writeDevice : MayComplete (.writeDevice 0x10) (patient .tx) := mayComplete_of (by decide)
theorem witness_Completes_readDeviceWithAck : MayComplete .readDeviceWithAck (patient .rx) := mayComplete_of (by decide)
theorem witness_Completes_readDeviceWithNak : MayComplete .readDeviceWithNak (patient .rx) := mayComplete_of (by decide)
theorem witness_Completes_writeBytes : MayComplete (.writeBytes 0x50 3 true) (patient .idle) := mayComplete_of (by decide)
theorem witness_Completes_readBytes : MayComplete (.readBytes 0x50 1 false) (patient .addrNak) := mayComplete_of (by decide)
theorem witness_Completes_writeRegister : MayComplete (.writeRegister 0x50 0 0) (patient .startFail) := mayComplete_of (by decide)
theorem witness_Completes_writeRegisterMulti : MayComplete (.writeRegisterMulti 0x68 0 0) (patient .idle) := mayComplete_of (by decide)
theorem witness_Completes_readRegister : MayComplete (.readRegister 0x50 0x10) (patient .idle) := mayComplete_of (by decide)
theorem witness_Completes_readRegisterMulti : MayComplete (.readRegisterMulti 0x68 0 3) (patient .idle) := mayComplete_of (by decide)
theorem witness_Completes_scanBus : MayComplete .scanBus (patient .idle) := mayComplete_of (by decide)

theorem witness_AdmissionByPhase : Ready (held .rx (ackAll [])) ∧ (held .rx (ackAll [])).phase ∉ admittingPhases .stop ∧
    Ready (held .rxEnd (ackAll [])) ∧ (held .rxEnd (ackAll [])).phase ∈ admittingPhases .stop := by decide
theorem witness_ReentrantExactlyDuringAnOperation : (run0 (ackAll [])).hung = false := by decide
/-- Counts 0, 3 and 4 against a buffer of three bytes. -/
theorem witness_OperandRefusalsInOrder : Ready (withBuf (run0 (ackAll []))) ∧
    (withBuf (run0 (ackAll []))).phase ∈ admittingPhases (.readBytes 0x50 0 true) ∧ readsNoByte (.readBytes 0x50 0 true) = true ∧
    (withBuf (run0 (ackAll []))).buf.len < bufferNeed (.readBytes 0x50 4 true) ∧
    bufferNeed (.readBytes 0x50 3 true) ≤ (withBuf (run0 (ackAll []))).buf.len := by decide
/-- A refusal, a read of each register while it is unwritten, and a step in a marked run. -/
theorem witness_MarksAreSetAndKept :
    refusalOfAnswer (step (issuing 0x30000001#32 (run0 (ackAll [])))) = some .illegalEncoding ∧
    (dueMove { run0 (ackAll []) with moves := [(0, .readOk)] } = some .readOk ∧
      dueMove { run0 (ackAll []) with moves := [(0, .readRd)] } = some .readRd ∧ (run0 (ackAll [])).ok = none ∧
      (run0 (ackAll [])).rd = none ∧ Ready (run0 (ackAll []))) ∧
    ∃ t, step { issuing 0x30000000#32 (run0 (ackAll [])) with refused := true, faulted := true } = .next t :=
  ⟨by decide, by decide, (exists_next (p := fun _ => True) (by decide)).imp fun _ h => h.1⟩
/-- V71 and V72. -/
theorem test_unwritten_reads : after (step { run0 (ackAll []) with moves := [(0, .readOk)] }) (fun t => t.faulted = true ∧
      t.opIndex = 0 ∧ t.moves = []) = true ∧
    after (step { run0 (ackAll []) with moves := [(0, .readRd)] }) (fun t => t.faulted = true) = true ∧
    after (step { run0 (ackAll []) with moves := [(0, .readRd)], rd := some 7 }) (fun t => t.faulted = false) = true := by decide
theorem witness_CallbackOperationIsRefused :
    ∃ t, exec .scanBus { run0 (scanEnv fun a => a == 1) with cb := [(0x01, .issue 0x30000000#32)] } = .next t ∧
      .found 0x01 ∈ t.log := exists_next (by decide +kernel)

/-- `NONE` of 95_test_vectors.md: no device answers. -/
def noDevice : Env := { ackAll [] with acks := [false] }
/-- `ACK_ALL() + STARTFAIL(1) + OAF`. -/
def startFails : Env := { ackAll [] with startConds := [false], ownedAfterFails := [true] }

/-- Both answers to the address byte. -/
theorem witness_StartSendsAddress :
    (Ready (run0 (ackAll [])) ∧ (run0 (ackAll [])).phase ≠ .rx ∧
      (run0 (ackAll [])).env.startConds = true :: List.replicate 3 true ∧
      (run0 (ackAll [])).env.acks = true :: List.replicate 7 true ∧ WaitsComplete 2 (run0 (ackAll []))) ∧
    (Ready (held .tx noDevice) ∧ (held .tx noDevice).phase ≠ .rx ∧
      (held .tx noDevice).env.startConds = true :: List.replicate 3 true ∧ (held .tx noDevice).env.acks = false :: [] ∧
      WaitsComplete 2 (held .tx noDevice)) := by decide
theorem witness_StartConditionFails : Ready (run0 startFails) ∧ (run0 startFails).phase ≠ .rx ∧
    (run0 startFails).env.startConds = false :: [] ∧ (run0 startFails).env.ownedAfterFails = true :: [] ∧
    WaitsComplete 1 (run0 startFails) := by decide
/-- The clauses of `StopReleasesTheBus`: during an operation, refused, completing, not completing with and without a bound,
and the two sides of the bound (V66's shape). -/
theorem witness_StopReleasesTheBus : ({ run0 (ackAll []) with inOp := true } : State).inOp = true ∧ Ready (held .rx (ackAll [])) ∧ (held .rx (ackAll [])).phase = .rx ∧
    waitCompletes { run0 (ackAll []) with log := [Event.stop] } = true ∧
    waitCompletes { run0 { ackAll [] with waits := [none] } with log := [Event.stop] } = false ∧
    waitCompletes { bounded { ackAll [] with waits := [some 6] } with log := [Event.stop] } = false ∧
    (Ready (bounded (ackAll [])) ∧ (bounded (ackAll [])).phase ≠ .rx ∧ (bounded (ackAll [])).cfg.waitBound = some 5 ∧
      (run0 (ackAll [])).cfg.waitBound = none ∧ (bounded { ackAll [] with waits := [none] }).env.waits = none :: []) := by decide
/-- A completion at the bound is in time, one after it is not (log entry 2). -/
theorem test_wait_bound : after (exec .stop (bounded { ackAll [] with waits := [some 5] })) (fun t => t.hung = false) = true ∧
    after (exec .stop (bounded { ackAll [] with waits := [some 6] })) (fun t => t.hung = true ∧ t.log = [.stop, .hang]) = true := by
  decide
theorem witness_WriteDeviceSendsByte : Ready (held .tx noDevice) ∧ (held .tx noDevice).phase = .tx ∧
    (held .tx noDevice).env.acks = false :: [] ∧ WaitsComplete 1 (held .tx noDevice) := by decide
theorem witness_ReadDeviceTakesByte : Ready (held .rx (ackAll [0x3C])) ∧ (held .rx (ackAll [0x3C])).phase = .rx ∧
    (held .rx (ackAll [0x3C])).env.bytes = 0x3C :: [] ∧ WaitsComplete 1 (held .rx (ackAll [0x3C])) := by decide
theorem witness_StopOnIdleBusIsHarmless : Ready (run0 (ackAll [])) ∧ (run0 (ackAll [])).phase = .idle ∧
    (run0 (ackAll [])).owned = false ∧ (run0 (ackAll [])).env.startConds = true :: true :: List.replicate 2 true ∧
    (run0 (ackAll [])).env.acks = true :: true :: List.replicate 6 true ∧ WaitsComplete 6 (run0 (ackAll [])) := by decide

/-- Both ways the first start fails, for each of the six composites that have one. -/
theorem witness_CompositesFailClosed :
    (∃ t, exec (.writeBytes 0x50 2 true) (withBuf (run0 noDevice)) = .next t ∧ Returned t) ∧
    (∃ t, exec (.readBytes 0x50 2 true) (withBuf (run0 startFails)) = .next t ∧ Returned t) ∧
    (∃ t, exec (.writeRegister 0x50 0x10 0xAB) (run0 noDevice) = .next t ∧ Returned t) ∧
    (∃ t, exec (.writeRegisterMulti 0x68 0 2) (withBuf (run0 startFails)) = .next t ∧ Returned t) ∧
    (∃ t, exec (.readRegister 0x50 0x10) (run0 noDevice) = .next t ∧ Returned t) ∧
    ∃ t, exec (.readRegisterMulti 0x50 0x10 2) (withBuf (run0 startFails)) = .next t ∧ Returned t :=
  ⟨exists_next (by decide), exists_next (by decide), exists_next (by decide), exists_next (by decide), exists_next (by decide),
   exists_next (by decide)⟩

/-- Acknowledges of an address byte and of the bytes after it. -/
def acking (as : List Bool) : State := withBuf (run0 { ackAll [0x11, 0x22, 0x33] with acks := as })

/-- Counts 0 and 3, the length of the buffer; the second of three bytes NAKed. -/
theorem witness_WriteBytesSendsBuffer : Ready (acking [true, true, false, true]) ∧ (acking [true, true, false, true]).phase ≠ .rx ∧
    3 ≤ (acking [true, true, false, true]).buf.len ∧ (acking [true, true, false, true]).env.startConds = true :: List.replicate 3 true ∧
    (acking [true, true, false, true]).env.acks = true :: [true, false, true] ++ [] ∧
    (acking [true]).env.acks = true :: [] ++ [] ∧ WaitsComplete 6 (acking [true, true, false, true]) := by decide
theorem witness_ReadBytesFillsBuffer : Ready (acking [true]) ∧ (acking [true]).phase ≠ .rx ∧ 3 ≤ (acking [true]).buf.len ∧
    Memory.wf (acking [true]).mem ∧ (acking [true]).env.startConds = true :: List.replicate 3 true ∧
    (acking [true]).env.acks = true :: [] ∧ (acking [true]).env.bytes = [0x11, 0x22, 0x33] ++ [] ∧
    WaitsComplete 6 (acking [true]) := by decide
theorem witness_WriteRegisterSendsRegisterAndData : Ready (acking [true, true, false]) ∧ (acking [true, true, false]).phase ≠ .rx ∧
    (acking [true, true, false]).env.startConds = true :: List.replicate 3 true ∧
    (acking [true, true, false]).env.acks = true :: true :: false :: [] ∧ WaitsComplete 5 (acking [true, true, false]) := by decide
theorem witness_WriteRegisterMultiSendsBuffer : Ready (acking [true, true, true, false, true]) ∧
    (acking [true, true, true, false, true]).phase ≠ .rx ∧ 3 ≤ (acking [true, true, true, false, true]).buf.len ∧
    (acking [true, true, true, false, true]).env.startConds = true :: List.replicate 3 true ∧
    (acking [true, true, true, false, true]).env.acks = true :: true :: [true, false, true] ++ [] ∧
    WaitsComplete 7 (acking [true, true, true, false, true]) := by decide
theorem witness_ReadRegisterSucceeds : Ready (acking [true, true, true]) ∧ (acking [true, true, true]).phase ≠ .rx ∧
    (acking [true, true, true]).env.startConds = true :: true :: List.replicate 2 true ∧
    (acking [true, true, true]).env.acks = true :: true :: true :: [] ∧
    (acking [true, true, true]).env.bytes = 0x11 :: [0x22, 0x33] ∧ WaitsComplete 7 (acking [true, true, true]) := by decide
/-- A failure at each of the three steps that can fail. -/
theorem witness_ReadRegisterFailsWithoutStop :
    (∃ t, exec (.readRegister 0x50 0x10) (acking [false]) = .next t ∧ Returned t ∧ t.ok = some false) ∧
    (∃ t, exec (.readRegister 0x50 0x10) (acking [true, false]) = .next t ∧ Returned t ∧ t.ok = some false) ∧
    ∃ t, exec (.readRegister 0x50 0x10) (acking [true, true, false]) = .next t ∧ Returned t ∧ t.ok = some false :=
  ⟨exists_next (by decide), exists_next (by decide), exists_next (by decide)⟩
theorem witness_ReadRegisterWriteThenRead :
    ∃ t, exec (.readRegister 0x50 0x10) (acking [true, true, true]) = .next t ∧ Returned t ∧ t.ok = some true ∧
      [Event.rstart 0x50 .R, .addrAck] <:+: t.log := exists_next (by decide)
theorem witness_ReadRegisterMultiFillsBuffer : Ready (acking [true, true, true]) ∧ (acking [true, true, true]).phase ≠ .rx ∧
    1 ≤ 3 ∧ 3 ≤ (acking [true, true, true]).buf.len ∧ Memory.wf (acking [true, true, true]).mem ∧
    (acking [true, true, true]).env.startConds = true :: true :: List.replicate 2 true ∧
    (acking [true, true, true]).env.acks = true :: true :: true :: [] ∧
    (acking [true, true, true]).env.bytes = [0x11, 0x22, 0x33] ++ [] ∧ WaitsComplete 9 (acking [true, true, true]) := by decide
theorem witness_ReadRegisterMultiFailsWithoutStop :
    (∃ t, exec (.readRegisterMulti 0x68 0 2) (acking [false]) = .next t ∧ Returned t ∧ t.ok = some false) ∧
    ∃ t, exec (.readRegisterMulti 0x68 0 2) (acking [true, true, false]) = .next t ∧ Returned t ∧ t.ok = some false :=
  ⟨exists_next (by decide), exists_next (by decide)⟩
/-- One byte and three, and the single read. -/
theorem witness_LastByteReadWithNak : Memory.wf (acking [true, true, true]).mem ∧
    (∃ t, exec (.readBytes 0x50 1 true) (acking [true]) = .next t ∧ Returned t ∧ t.ok = some true) ∧
    (∃ t, exec (.readRegisterMulti 0x50 0 3) (acking [true, true, true]) = .next t ∧ Returned t ∧ t.ok = some true) ∧
    ∃ t, exec (.readRegister 0x50 0) (acking [true, true, true]) = .next t ∧ Returned t ∧ t.ok = some true :=
  ⟨by decide, exists_next (by decide), exists_next (by decide), exists_next (by decide)⟩
theorem witness_ScanBusFindsResponders : Ready (run0 (scanEnv fun a => a == 126)) ∧ (run0 (scanEnv fun a => a == 126)).phase ≠ .rx ∧
    (run0 (scanEnv fun a => a == 126)).env.startConds = List.replicate 126 true ++ [] ∧
    (run0 (scanEnv fun a => a == 126)).env.acks.length = 126 ∧ (run0 (scanEnv fun a => a == 126)).env.bytes.length = 126 ∧
    WaitsComplete 504 (run0 (scanEnv fun a => a == 126)) :=
  ⟨⟨rfl, rfl⟩, by decide, (List.append_nil _).symm, (List.length_map _).trans List.length_range, List.length_replicate,
   waits_replicate le_rfl rfl rfl⟩
theorem witness_ScanBusTriesEveryAddress : ∃ t, exec .scanBus (run0 (scanEnv fun a => a == 60)) = .next t ∧ Returned t :=
  exists_next (by decide +kernel)
/-- After each of the two chained operations, with an answer queued for the next start. -/
theorem witness_ChainedOperationDrivesRepeatedStart :
    (∃ t, exec (.writeBytes 0x50 3 false) (acking [true, true, true, true, false]) = .next t ∧ Returned t ∧
      [Event.start 0x50 .W, .addrAck] <+: t.log.drop 0 ∧ t.env.startConds = true :: [true, true] ∧
      t.env.acks = false :: [] ∧ bufferNeed (.readBytes 0x50 3 true) ≤ t.buf.len ∧ WaitsComplete 2 t) ∧
    ∃ t, exec (.readBytes 0x50 3 false) (acking [true, true]) = .next t ∧ Returned t ∧
      [Event.start 0x50 .R, .addrAck] <+: t.log.drop 0 ∧ t.env.startConds = true :: [true, true] ∧
      t.env.acks = true :: [] ∧ WaitsComplete 2 t :=
  ⟨exists_next (by decide), exists_next (by decide)⟩

/-- Every operation answers a next state somewhere, so no frame is empty; a failed start and a hang are among them. -/
theorem witness_FrameOfStartAndWriteDevice :
    (∃ t, exec (.start 0x50 .R) (run0 (ackAll [])) = .next t ∧ Returned t) ∧
    (∃ t, exec (.repeatStart 0x50 .W) (run0 startFails) = .next t ∧ Returned t ∧ t.ok = some false) ∧
    (∃ t, exec (.start 0x50 .R) (bounded { ackAll [] with waits := [none] }) = .next t ∧ t.hung = true) ∧
    ∃ t, exec (.writeDevice 0x10) (held .tx (ackAll [])) = .next t ∧ Returned t :=
  ⟨exists_next (by decide), exists_next (by decide), exists_next (by decide), exists_next (by decide)⟩
theorem witness_FrameOfStopAndReads : (∃ t, exec .stop (run0 (ackAll [])) = .next t ∧ Returned t) ∧
    (∃ t, exec .readDeviceWithAck (held .rx (ackAll [0x3C])) = .next t ∧ Returned t) ∧
    ∃ t, exec .readDeviceWithNak (held .rx (ackAll [0x3C])) = .next t ∧ Returned t :=
  ⟨exists_next (by decide), exists_next (by decide), exists_next (by decide)⟩
theorem witness_FrameOfCompositesThatStoreNothing :
    (∃ t, exec (.writeBytes 0x50 3 true) (acking [true, true, true, true]) = .next t ∧ Returned t) ∧
    (∃ t, exec (.writeRegister 0x50 0 1) (acking [false]) = .next t ∧ Returned t ∧ t.ok = some false) ∧
    (∃ t, exec (.writeRegisterMulti 0x50 0 1) (acking [true, true, true]) = .next t ∧ Returned t) ∧
    ∃ t, exec (.readRegister 0x50 0) (acking [true, true, true]) = .next t ∧ Returned t :=
  ⟨exists_next (by decide), exists_next (by decide), exists_next (by decide), exists_next (by decide)⟩
theorem witness_FrameOfBufferReads :
    (∃ t, exec (.readBytes 0x50 3 true) (acking [true]) = .next t ∧ t.mem.read 16 ≠ (acking [true]).mem.read 16) ∧
    (∃ t, exec (.readBytes 0x50 3 true) (acking [false]) = .next t ∧ t.ok = some false) ∧
    ∃ t, exec (.readRegisterMulti 0x50 0 1) (acking [true, true, true]) = .next t ∧ Returned t :=
  ⟨exists_next (by decide), exists_next (by decide), exists_next (by decide)⟩
/-- The callback's acts for an address that answers are done, the last store standing; those for one that does not are
not. -/
theorem witness_FrameOfScanBus : ∃ t, exec .scanBus { run0 (scanEnv fun a => a == 1) with
      cb := [(0x01, .store 7 9), (0x02, .store 8 9), (0x01, .store 7 5), (0x02, .issue 0x30000000#32)] } = .next t ∧
    .found 0x01 ∈ t.log ∧ t.mem.read 7 = 5 ∧ t.mem.read 8 = 0 ∧ t.refused = false ∧ Memory.wf (run0 (ackAll [])).mem :=
  exists_next (by decide +kernel)
theorem witness_WhoWritesTheResults :
    (∃ t, exec (.start 0x50 .W) (run0 (ackAll [])) = .next t ∧ Returned t ∧ writesOk (.start 0x50 .W) = true) ∧
    ∃ t, exec .stop (run0 (ackAll [])) = .next t ∧ writesOk .stop = false ∧ writesRd .stop = false :=
  ⟨exists_next (by decide), exists_next (by decide)⟩

theorem witness_MemoryReadAfterWrite : Memory.wf [(16, 1#8), (17, 2#8)] ∧ (15 : Nat) ≠ 16 := by decide

/-- A state that meets the invariant and has a next state. -/
theorem witness_StepKeepsInvariant : Inv (issuing 0x10A00000#32 (run0 (ackAll []))) ∧
    ∃ t, step (issuing 0x10A00000#32 (run0 (ackAll []))) = .next t ∧ t.phase = .tx :=
  ⟨⟨by decide, by decide, by decide, by decide, by decide, by decide⟩, exists_next (by decide)⟩
/-- A log with a NAKed write, in phase `Tx`, and a next state. -/
theorem witness_StepKeepsLegalLog :
    LegalLog { held .tx (ackAll []) with log := [.start 0x50 .W, .addrAck, .write 1, .nak],
                                         ops := [{ word := 0x40000010#32, buf := { base := 0, len := 0 }, cb := [] }] } ∧
    ∃ t, step { held .tx (ackAll []) with log := [.start 0x50 .W, .addrAck, .write 1, .nak],
                                          ops := [{ word := 0x40000010#32, buf := { base := 0, len := 0 }, cb := [] }] } = .next t ∧
      t.ok = some true :=
  ⟨⟨.between .tx, by decide, by decide⟩, exists_next (by decide)⟩
/-- What a legal log forbids: a data byte before any address was ACKed, a stop before the last byte is NAKed. -/
theorem test_illegal_logs : logRun (.between .idle) [.start 0x50 .W, .addrNak, .write 1] = none ∧
    logRun (.between .idle) [.start 0x50 .R, .addrAck, .read 1, .ack, .stop] = none ∧
    logRun (.between .idle) [.found 1] = none ∧ logRun (.between .idle) [.stop, .found 1, .found 2] = none := by decide
theorem witness_LogAndWireOnlyGrow : ∃ t, step (issuing 0x10A00000#32 (run0 (ackAll []))) = .next t ∧ t.wire ≠ [] :=
  exists_next (by decide)
/-- Two states that differ in the backend and its registers, and their next states. -/
theorem witness_BackendsAreEquivalent : SameBus (issuing 0x10A00000#32 (run0 (ackAll [])))
      { issuing 0x10A00000#32 (run0 (ackAll [])) with
        cfg := { backend := .usiTwi, waitBound := none, wbPropagateDataNak := false, wrmContinueAfterNak := false } } ∧
    ∃ t, step { issuing 0x10A00000#32 (run0 (ackAll [])) with
        cfg := { backend := .usiTwi, waitBound := none, wbPropagateDataNak := false, wrmContinueAfterNak := false } } = .next t ∧
      t.phase = .tx :=
  ⟨rfl, exists_next (by decide)⟩
theorem witness_OtherBackendIsUntouched : (run0 (ackAll [])).cfg.backend = .hardwareTwi ∧
    (bounded (ackAll [])).cfg.backend = .usiTwi ∧
    ∃ t, step (issuing 0x10A00000#32 (bounded (ackAll []))) = .next t ∧ t.usi ≠ UsiRegs.reset :=
  ⟨rfl, rfl, exists_next (by decide)⟩
/-- V29 and V32, V37, V38 and V39a with HardwareTwi: the status codes of R113. -/
theorem witness_TwiStatusSaysOutcome :
    (∃ t, exec (.start 0x50 .W) (run0 (ackAll [])) = .next t ∧ Returned t ∧ twiStatus t.twi = 0x18) ∧
    (∃ t, exec (.start 0x50 .R) (run0 { noDevice with whys := [.nak] }) = .next t ∧ Returned t ∧ twiStatus t.twi = 0x48) ∧
    (∃ t, exec (.writeDevice 0x10) (held .tx { noDevice with whys := [.nak] }) = .next t ∧ Returned t ∧ twiStatus t.twi = 0x30) ∧
    (∃ t, exec .readDeviceWithAck (held .rx (ackAll [0x3C])) = .next t ∧ Returned t ∧ t.twi.twdr = 0x3C) ∧
    (∃ t, exec .readDeviceWithNak (held .rx (ackAll [0xA5])) = .next t ∧ Returned t ∧ twiStatus t.twi = 0x58) ∧
    ∃ t, exec .stop (run0 (ackAll [])) = .next t ∧ Returned t :=
  ⟨exists_next (by decide), exists_next (by decide), exists_next (by decide), exists_next (by decide), exists_next (by decide),
   exists_next (by decide)⟩
/-- SDA's latch high, as after a start or a stop; and a byte seen on SDA most significant bit first. -/
theorem witness_UsiTransferMovesByte : ({ UsiRegs.reset with sdaHigh := true } : UsiRegs).sdaHigh = true ∧
    usiShiftLine released8 (usiSendIssue 0xA0 UsiRegs.reset) = [true, false, true, false, false, false, false, false] := by decide

/-- A word of each operation, its operands at the ends of their ranges. -/
theorem witness_OperandsAreTheirBits : decode 0x10FF0000#32 = .ok (.start 0x7F .R) ∧
    decode 0x20000000#32 = .ok (.repeatStart 0 .W) ∧ decode 0x30000000#32 = .ok .stop ∧
    decode 0x400000FF#32 = .ok (.writeDevice 0xFF) ∧ decode 0x50000000#32 = .ok .readDeviceWithAck ∧
    decode 0x60000000#32 = .ok .readDeviceWithNak ∧ decode 0x88FE00FF#32 = .ok (.writeBytes 0x7F 255 true) ∧
    decode 0x90000000#32 = .ok (.readBytes 0 0 false) := by
  refine ⟨?_, ?_, ?_, ?_, ?_, ?_, ?_, ?_⟩ <;> decide
theorem witness_OperandsAreTheirBits_registers : decode 0xA0FEFF00#32 = .ok (.writeRegister 0x7F 0xFF 0) ∧
    decode 0xB00000FF#32 = .ok (.writeRegisterMulti 0 0 255) ∧ decode 0xC0FEFF00#32 = .ok (.readRegister 0x7F 0xFF) ∧
    decode 0xD0FE0000#32 = .ok (.readRegisterMulti 0x7F 0 0) ∧ decode 0xE0000000#32 = .ok .scanBus := by
  refine ⟨?_, ?_, ?_, ?_, ?_⟩ <;> decide
theorem witness_CallerMovesBetweenOperations : Ready { run0 (ackAll []) with moves := [(0, .store 7 9)] } ∧
    ({ run0 (ackAll []) with moves := [(0, .store 7 9)] } : State).moves = (0, .store 7 9) :: [] ∧ 0 ≤ (run0 (ackAll [])).opIndex ∧
    Memory.wf (run0 (ackAll [])).mem := by decide
/-- A read of each register, unwritten and written. -/
theorem witness_CallerMovesBetweenOperations_reads :
    (∃ t, step { run0 (ackAll []) with moves := [(0, .readOk)] } = .next t ∧ t.faulted = true ∧ t.moves = []) ∧
    (∃ t, step { run0 (ackAll []) with moves := [(0, .readOk)], ok := some false } = .next t ∧ t.faulted = false) ∧
    (∃ t, step { run0 (ackAll []) with moves := [(0, .readRd)] } = .next t ∧ t.faulted = true ∧ t.moves = []) ∧
    ∃ t, step { run0 (ackAll []) with moves := [(0, .readRd)], rd := some 7 } = .next t ∧ t.faulted = false :=
  ⟨exists_next (by decide), exists_next (by decide), exists_next (by decide), exists_next (by decide)⟩

/-- A list of two operations that runs to its end, and one whose second is refused. -/
def listed (ws : List Word32) : State :=
  { run0 (ackAll []) with ops := ws.map fun w => { word := w, buf := { base := 16, len := 3 }, cb := [] }, moves := [(1, .readOk)] }

theorem witness_RunEndsWhenEveryWaitCompletes :
    (Ready (listed [0x10A00000#32, 0x30000000#32]) ∧ EnvCompletes (waitsLeft (listed [0x10A00000#32, 0x30000000#32]))
      (listed [0x10A00000#32, 0x30000000#32])) ∧
    Ready (listed [0x10A10000#32, 0x30000000#32]) ∧ EnvCompletes (waitsLeft (listed [0x10A10000#32, 0x30000000#32]))
      (listed [0x10A10000#32, 0x30000000#32]) :=
  ⟨⟨by decide, WaitsComplete.envCompletes (by decide)⟩, by decide, WaitsComplete.envCompletes (by decide)⟩
/-- The strobe at the sixteenth edge and before it; and SCL held in wire mode `0b11`, not in `0b10` (R123, R124). -/
theorem witness_UsicrWriteByFields :
    (writeUsicr true 0x2B { UsiRegs.reset with usisr := 0x0F }).usisr = 0x40 ∧
    (writeUsicr true 0x2B UsiRegs.reset).usisr = 0x01 ∧ (writeUsicr true 0x29 UsiRegs.reset).usisr = 0x00 ∧
    masterScl { UsiRegs.reset with usicr := 0x3A, usisr := 0x40 } = false ∧
    masterScl { UsiRegs.reset with usicr := 0x2A, usisr := 0x40 } = true := by decide

/-- The premises of R154 hold after the backend is initialised, whichever it is, and a USI whose MSB pulls SDA low is neither
ready nor idle. -/
theorem test_launch : LaunchState (initBackend (run0 (ackAll []))) ∧ LaunchState (initBackend (bounded (ackAll []))) ∧
    ¬LinesReleased { UsiRegs.reset with usicr := twoWireSw, sdaOut := true } :=
  ⟨⟨initBackend_initDone _, by decide, by decide, by decide⟩, ⟨initBackend_initDone _, by decide, by decide, by decide⟩, by decide⟩

/-- A run with a mark set has not ended (R156). -/
theorem test_marked_run_not_ended : RunEnded (run0 (ackAll [])) ∧ ¬RunEnded { run0 (ackAll []) with refused := true } ∧
    ¬RunEnded { run0 (ackAll []) with faulted := true } := by decide
/-- A due read of the unwritten OK leaves the run ended until it is made (log entry 31). -/
theorem test_due_move_after_end : RunEnded { run0 (ackAll []) with moves := [(0, .readOk)] } ∧
    after (step { run0 (ackAll []) with moves := [(0, .readOk)] }) (fun t => ¬RunEnded t) = true := by decide

end Sys2Proof.Tests
end

section
/-! The state and admission: what refuses an operation that may begin, and what a read of a result register gives. -/

namespace Sys2Proof.Machine

/-- The phase check is the first of `refusalOf`'s, so no later one hides it (R137). -/
theorem refusalOf_eq_outOfPhase {i : Instr} {s : State} :
    refusalOf i s = some .outOfPhase ↔ s.phase ∉ admittingPhases i := by
  unfold refusalOf
  split
  · next hout => simp [hout]
  · next hin =>
    -- whatever the checks after the phase answer, it is another reason
    refine iff_of_false ?_ hin
    split
    · simp
    · split <;> simp

/-- An operation that may begin is refused for a reason exactly where `refusalOf` names it. -/
theorem exec_eq_refused {i : Instr} {s : State} {r : Refusal} (h : Ready s) :
    exec i s = .refused r ↔ refusalOf i s = some r := by
  obtain ⟨hop, hhung⟩ := h
  cases hr : refusalOf i s with
  | none => simp [exec_next hhung hop hr]
  | some q => simp [exec_refused hhung hop hr]

/-- Settles O15: past the hang and reentrancy checks the refusal is `refusalOf`'s, and that checks the phase first. -/
theorem admissionByPhase : Obligations.AdmissionByPhase :=
  fun _ _ h => (exec_eq_refused h).trans refusalOf_eq_outOfPhase

theorem readOk_eq_error {s : State} : readOk s = .error .unwrittenRead ↔ s.ok = none := by
  unfold readOk
  cases s.ok <;> simp

theorem readOk_eq_ok {s : State} {b : Bool} : readOk s = .ok b ↔ s.ok = some b := by
  unfold readOk
  cases s.ok <;> simp

theorem readRd_eq_error {s : State} : readRd s = .error .unwrittenRead ↔ s.rd = none := by
  unfold readRd
  cases s.rd <;> simp

theorem readRd_eq_ok {s : State} {v : Byte} : readRd s = .ok v ↔ s.rd = some v := by
  unfold readRd
  cases s.rd <;> simp

/-- Settles O19: each read by the cases of its register, unwritten or written. -/
theorem unwrittenReadFaults : Obligations.UnwrittenReadFaults :=
  fun _ => ⟨readOk_eq_error, fun _ => readOk_eq_ok, readRd_eq_error, fun _ => readRd_eq_ok⟩

end Sys2Proof.Machine
end

section
/-! The primitives as operations: the next state of a `stop` and of a `start` whose waits complete, and the two in turn. -/

namespace Sys2Proof.Machine

/-- What a `stop` that returned leaves behind (R79, R106), the first of the queued waits used. -/
structure Stopped (s t : State) : Prop where
  ready : Ready t
  log : t.log = s.log ++ [Event.stop]
  wire : t.wire = s.wire ++ [WireSym.P]
  phase : t.phase = .idle
  owned : t.owned = false
  startConds : t.env.startConds = s.env.startConds
  acks : t.env.acks = s.env.acks
  waits : Waits 1 s t

theorem exec_stop_returns {s : State} (h : Ready s) (hp : s.phase ≠ .rx) (hw : WaitsComplete 1 s) :
    ∃ t, exec .stop s = .next t ∧ Stopped s t := by
  obtain ⟨hop, hhung⟩ := h
  obtain ⟨u, hu, hl, hx, hph, ho, hc, ha, -, hwu, ⟨-, -, hh⟩, -⟩ := stop_step (s := begun .stop s) hw
  have hran : ran .stop s = endOp u := by simp [ran, hu, complete, writeNothing]
  refine ⟨endOp u, ?_, ⟨rfl, hh.trans hhung⟩, hl, hx, hph, ho, hc, ha, hwu⟩
  rw [← hran]
  exact exec_next hhung hop (refusalOf_eq_none.2 ⟨mem_of_ne_rx hp, rfl, Nat.zero_le _⟩)

/-- What a `start d, W` leaves behind whose start condition was established and whose address byte was answered by `a`
(R77, R102), the first answer of each queue and two waits used. -/
structure Addressed (d : Addr7) (a : Bool) (s t : State) : Prop where
  ready : Ready t
  log : t.log = s.log ++ [Event.start d .W, if a then .addrAck else .addrNak]
  wire : t.wire = s.wire ++ addressWire s.owned d .W a
  phase : t.phase = if a then .tx else .addrNak
  owned : t.owned = true
  ok : t.ok = some a
  startConds : t.env.startConds = s.env.startConds.tail
  acks : t.env.acks = s.env.acks.tail
  waits : Waits 2 s t

theorem exec_start_addresses (d : Addr7) {s : State} {a : Bool} {cs as : List Bool} (h : Ready s) (hp : s.phase ≠ .rx)
    (hc : s.env.startConds = true :: cs) (ha : s.env.acks = a :: as) (hw : WaitsComplete 2 s) :
    ∃ t, exec (.start d .W) s = .next t ∧ Addressed d a s t := by
  obtain ⟨hop, hhung⟩ := h
  obtain ⟨u, hu, hl, hx, hph, ho, hcu, hau, -, hwu, ⟨-, -, hh⟩, -⟩ :=
    start_step (s := begun (.start d .W) s) (.start d .W) d .W hc ha hw
  have hran : ran (.start d .W) s = endOp (writeOk a u) := by simp [ran, hu, complete]
  refine ⟨endOp (writeOk a u), ?_, ⟨rfl, hh.trans hhung⟩, hl, hx, hph, ho, rfl, ?_, ?_, hwu⟩
  · rw [← hran]
    exact exec_next hhung hop (refusalOf_eq_none.2 ⟨mem_of_ne_rx hp, rfl, Nat.zero_le _⟩)
  · simpa [hc] using hcu
  · simpa [ha] using hau

/-- Settles O26: each `stop` leaves the bus idle and not owned, so either `start` after it drives `S`; the six waits are
used one by a `stop`, two by a `start`. -/
theorem stopOnIdleBusIsHarmless : Obligations.StopOnIdleBusIsHarmless := by
  intro d s cs as hr hp _ hc ha hw
  obtain ⟨s1, e1, h1⟩ := exec_stop_returns hr (by simp [hp]) (hw.mono (by omega))
  have hw1 : WaitsComplete 5 s1 := h1.waits 5 hw
  obtain ⟨s2, e2, h2⟩ := exec_start_addresses d h1.ready (by simp [h1.phase]) (h1.startConds.trans hc)
    (h1.acks.trans ha) (hw1.mono (by omega))
  have hw2 : WaitsComplete 3 s2 := h2.waits 3 hw1
  obtain ⟨s3, e3, h3⟩ := exec_stop_returns h2.ready (by simp [h2.phase]) (hw2.mono (by omega))
  have hw3 : WaitsComplete 2 s3 := h3.waits 2 hw2
  have hc3 : s3.env.startConds = true :: cs := by simp [h3.startConds, h2.startConds, h1.startConds, hc]
  have ha3 : s3.env.acks = true :: as := by simp [h3.acks, h2.acks, h1.acks, ha]
  obtain ⟨s4, e4, h4⟩ := exec_start_addresses d h3.ready (by simp [h3.phase]) hc3 ha3 hw3
  refine ⟨s1, s2, s3, s4, e1, h1.phase, h1.owned, e2, h2.ok, ?_, e3, e4, h4.ok, ?_, ?_⟩
  · rw [h2.wire, h1.owned]
  · rw [h4.wire, h3.owned]
  · simp [h4.log, h3.log, h2.log, h1.log]

end Sys2Proof.Machine
end

section
/-! The two backends: the bus level of what every update, body and step answers depends on the bus level of the state it
starts from alone (R33, R108). -/

namespace Sys2Proof.Machine

/-- Two body ends that the bus level does not tell apart. -/
inductive SameRun {α : Type} : Run α → Run α → Prop where
  | done (a : α) {s t : State} (h : SameBus s t) : SameRun (.done a s) (.done a t)
  | halt {s t : State} (h : SameBus s t) : SameRun (.halt s) (.halt t)

section
variable {α : Type} {s t : State}

/-! ### Reads and straight-line updates -/

/-- What is read off the bus level alone is read alike. -/
theorem SameBus.read (h : SameBus s t) (f : State → α) (hf : ∀ s, f (busLevel s) = f s) : f s = f t :=
  (hf s).symm.trans ((congrArg f h).trans (hf t))

theorem SameBus.buf (h : SameBus s t) : s.buf = t.buf := h.read State.buf fun _ => rfl
theorem SameBus.hung (h : SameBus s t) : s.hung = t.hung := h.read State.hung fun _ => rfl
theorem SameBus.inOp (h : SameBus s t) : s.inOp = t.inOp := h.read State.inOp fun _ => rfl

/-- An update whose bus level comes from the bus level alone keeps two states alike. -/
theorem SameBus.map (h : SameBus s t) (f : State → State) (hf : ∀ s, busLevel (f (busLevel s)) = busLevel (f s)) :
    SameBus (f s) (f t) :=
  h.read (fun s => busLevel (f s)) hf

/-- A backend's step does not show, whichever backend makes it and whatever it writes (R33). -/
theorem busLevel_onBackend (f : TwiRegs → TwiRegs) (g : UsiRegs → UsiRegs) (s : State) :
    busLevel (onBackend f g s) = busLevel s := rfl

/-- So the two sides may even make different backend steps. -/
theorem SameBus.onBackends (h : SameBus s t) (f f' : TwiRegs → TwiRegs) (g g' : UsiRegs → UsiRegs) :
    SameBus (onBackend f g s) (onBackend f' g' t) := by
  unfold SameBus
  rw [busLevel_onBackend, busLevel_onBackend]
  exact h

theorem startEstablished_same (h : SameBus s t) : SameBus (startEstablished s) (startEstablished t) :=
  h.map startEstablished fun _ => rfl

theorem memWrite_same (h : SameBus s t) (buf : BufRef) (i : Nat) (v : Byte) :
    SameBus (memWrite buf i v s) (memWrite buf i v t) :=
  h.map (memWrite buf i v) fun _ => rfl

theorem begun_same (h : SameBus s t) (i : Instr) : SameBus (begun i s) (begun i t) :=
  h.map (begun i) fun _ => by cases i <;> rfl

/-! ### Updates with a case of their own -/

theorem giveUp_same (h : SameBus s t) : SameBus (giveUp s) (giveUp t) := by
  have hb : s.cfg.waitBound = t.cfg.waitBound := h.read (fun s => s.cfg.waitBound) fun _ => rfl
  unfold giveUp
  rw [← hb]
  cases s.cfg.waitBound with
  | none => exact h
  | some _ => exact h.map (fun s => { logEvents [.hang] s with hung := true, inOp := false }) fun _ => rfl

/-- The status codes do not show; the draw of a reason does, and is made where the step failed. -/
theorem ackedStep_same (h : SameBus s t) (code : Bool → Why → Byte) (a : Bool) :
    SameBus (ackedStep code a s) (ackedStep code a t) := by
  cases a with
  | true => exact h.onBackends _ _ _ _
  | false => exact (h.map popWhy fun _ => rfl).onBackends _ _ _ _

/-- Whether the bus is still owned is drawn alike, after `START-FAIL` is logged (R27). -/
theorem startFailed_same (h : SameBus s t) : SameBus (startFailed s) (startFailed t) := by
  have h1 := h.map
    (fun s => setPhase .startFail (setCause .startFail (logEvents [.startFail] (emit [.attempted s.owned] s)))) fun _ => rfl
  have ho := h1.read nextOwnedAfterFail fun _ => rfl
  have h2 := (h1.map popOwnedAfterFail fun _ => rfl).map popWhy fun _ => rfl
  unfold startFailed
  dsimp only at ho ⊢
  rw [← ho]
  exact (h2.onBackends _ _ _ _).map (setOwned _) fun _ => rfl

theorem callbackAct_same (h : SameBus s t) (act : CallbackAct) : SameBus (callbackAct act s) (callbackAct act t) :=
  h.map (callbackAct act) fun _ => by cases act <;> rfl

theorem callbackActs_same (h : SameBus s t) (a : Addr7) (acts : Callback) :
    SameBus (callbackActs a acts s) (callbackActs a acts t) := by
  induction acts generalizing s t with
  | nil => exact h
  | cons x rest ih =>
    apply ih
    split
    · exact callbackAct_same h x.2
    · exact h

theorem runCallback_same (h : SameBus s t) (a : Addr7) : SameBus (runCallback a s) (runCallback a t) := by
  have hcb : s.cb = t.cb := h.read State.cb fun _ => rfl
  unfold runCallback
  rw [← hcb]
  exact callbackActs_same h a s.cb

theorem noteRead_same (h : SameBus s t) (r : Except ModelFault α) : SameBus (noteRead r s) (noteRead r t) := by
  cases r with
  | ok _ => exact h
  | error f => exact h.map (raiseModelFault f) fun _ => by cases f; rfl

theorem performMove_same (h : SameBus s t) (m : CallerMove) : SameBus (performMove m s) (performMove m t) := by
  cases m with
  | readOk =>
    have hok : readOk s = readOk t := h.read readOk fun _ => rfl
    simpa only [performMove, hok] using noteRead_same h (readOk t)
  | readRd =>
    have hrd : readRd s = readRd t := h.read readRd fun _ => rfl
    simpa only [performMove, hrd] using noteRead_same h (readRd t)
  | store a v => exact h.map (storeByte a v) fun _ => rfl

/-! ### Sequences -/

theorem SameRun.bind {β : Type} {r q : Run α} {f g : α → State → Run β} (h : SameRun r q)
    (hf : ∀ a {u v}, SameBus u v → SameRun (f a u) (g a v)) : SameRun (r.bind f) (q.bind g) := by
  cases h with
  | done a hs => exact hf a hs
  | halt hs => exact .halt hs

theorem SameRun.onSuccess {r q : Run Bool} {f g : State → Run Bool} (h : SameRun r q)
    (hf : ∀ {u v}, SameBus u v → SameRun (f u) (g v)) : SameRun (onSuccess r f) (onSuccess q g) := by
  refine h.bind fun a _ _ hu => ?_
  cases a with
  | true => exact hf hu
  | false => exact .done _ hu

theorem wait_same (h : SameBus s t) : SameRun (wait s) (wait t) := by
  have hw : waitCompletes s = waitCompletes t := h.read waitCompletes fun _ => rfl
  have hp : SameBus (popWait s) (popWait t) := h.map popWait fun _ => rfl
  unfold wait
  rw [← hw]
  split
  · exact .done _ hp
  · exact .halt (giveUp_same hp)

/-! ### The primitives' bodies -/

theorem addressDone_same (h : SameBus s t) (d : Addr7) (dir : Dir) :
    SameRun (addressDone d dir s) (addressDone d dir t) := by
  have ha : nextAck .address (slaByte d dir) s = nextAck .address (slaByte d dir) t :=
    h.read (nextAck .address (slaByte d dir)) fun _ => rfl
  have hs (a : Bool) : SameBus (ackedStep (addressCode dir) a (popAck s)) (ackedStep (addressCode dir) a (popAck t)) :=
    ackedStep_same (h.map popAck fun _ => rfl) _ a
  unfold addressDone
  rw [← ha]
  cases nextAck .address (slaByte d dir) s with
  | true => exact .done _ ((hs true).map (fun s => setPhase _ (setCause _ (logEvents _ (emit _ s)))) fun _ => rfl)
  | false => exact .done _ ((hs false).map (fun s => setPhase _ (setCause _ (logEvents _ (emit _ s)))) fun _ => rfl)

theorem addressPhase_same (h : SameBus s t) (d : Addr7) (dir : Dir) :
    SameRun (addressPhase d dir s) (addressPhase d dir t) :=
  (wait_same (h.onBackends _ _ _ _)).bind fun _ _ _ hu => addressDone_same hu d dir

theorem bodyStart_same (h : SameBus s t) (tok : Event) (d : Addr7) (dir : Dir) :
    SameRun (bodyStart tok d dir s) (bodyStart tok d dir t) := by
  have h0 : SameBus (logEvents [tok] s) (logEvents [tok] t) := h.map (logEvents [tok]) fun _ => rfl
  refine (wait_same (h0.onBackends _ _ _ _)).bind fun _ u v hu => ?_
  have hc : nextStartCond u = nextStartCond v := hu.read nextStartCond fun _ => rfl
  have hp : SameBus (popStartCond u) (popStartCond v) := hu.map popStartCond fun _ => rfl
  rw [← hc]
  split
  · exact addressPhase_same (startEstablished_same hp) d dir
  · exact .done _ (startFailed_same hp)

theorem bodyStop_same (h : SameBus s t) : SameRun (bodyStop s) (bodyStop t) := by
  have h0 : SameBus (logEvents [.stop] s) (logEvents [.stop] t) := h.map (logEvents [.stop]) fun _ => rfl
  exact (wait_same (h0.onBackends _ _ _ _)).bind fun _ _ _ hu =>
    .done _ ((hu.onBackends _ _ _ _).map (fun s => setOwned false (setPhase .idle (emit [.P] s))) fun _ => rfl)

theorem dataDone_same (h : SameBus s t) (b : Byte) : SameRun (dataDone b s) (dataDone b t) := by
  have ha : nextAck .data b s = nextAck .data b t := h.read (nextAck .data b) fun _ => rfl
  have hs (a : Bool) : SameBus (ackedStep dataCode a (popAck s)) (ackedStep dataCode a (popAck t)) :=
    ackedStep_same (h.map popAck fun _ => rfl) _ a
  unfold dataDone
  rw [← ha]
  exact .done _ ((hs _).map (fun s => setPhase .tx (setCause _ (logEvents _ (emit _ s)))) fun _ => rfl)

theorem bodyWriteDevice_same (h : SameBus s t) (b : Byte) : SameRun (bodyWriteDevice b s) (bodyWriteDevice b t) := by
  have h0 : SameBus (logEvents [.write b] s) (logEvents [.write b] t) := h.map (logEvents [.write b]) fun _ => rfl
  exact (wait_same (h0.onBackends _ _ _ _)).bind fun _ _ _ hu => dataDone_same hu b

theorem bodyRead_same (h : SameBus s t) (ack : Bool) : SameRun (bodyRead ack s) (bodyRead ack t) := by
  refine (wait_same (h.onBackends _ _ _ _)).bind fun _ u v hu => ?_
  have hv : nextByte u = nextByte v := hu.read nextByte fun _ => rfl
  dsimp only
  rw [← hv]
  have hp : SameBus (popByte u) (popByte v) := hu.map popByte fun _ => rfl
  exact .done _ ((hp.onBackends _ _ _ _).map (fun s => setPhase _ (logEvents _ (emit _ s))) fun _ => rfl)

/-! ### The composites' bodies -/

theorem writeLoop_same (h : SameBus s t) (cont : Bool) (buf : BufRef) (k i : Nat) :
    SameRun (writeLoop cont buf k i s) (writeLoop cont buf k i t) := by
  induction k generalizing i s t with
  | zero => exact .done _ h
  | succ k ih =>
    have hb : memRead buf i s = memRead buf i t := h.read (memRead buf i) fun _ => rfl
    simp only [writeLoop, ← hb]
    refine (bodyWriteDevice_same h _).bind fun a _ _ hu => ?_
    split
    · exact (ih hu (i + 1)).bind fun _ _ _ hw => .done _ hw
    · exact .done _ hu

theorem readLoop_same (h : SameBus s t) (buf : BufRef) (k i : Nat) :
    SameRun (readLoop buf k i s) (readLoop buf k i t) := by
  induction k generalizing i s t with
  | zero => exact .done _ h
  | succ k ih => exact (bodyRead_same h true).bind fun v _ _ hu => ih (memWrite_same hu buf i v) (i + 1)

theorem readPhase_same (h : SameBus s t) (buf : BufRef) (n : Nat) : SameRun (readPhase buf n s) (readPhase buf n t) :=
  (readLoop_same h buf (n - 1) 0).bind fun _ _ _ hu =>
    (bodyRead_same hu false).bind fun v _ _ hw => .done _ (memWrite_same hw buf (n - 1) v)

theorem stopIf_same (h : SameBus s t) (ss : Bool) : SameRun (stopIf ss s) (stopIf ss t) := by
  cases ss with
  | true => exact bodyStop_same h
  | false => exact .done _ h

theorem stopThen_same (h : SameBus s t) (a : Bool) : SameRun (stopThen a s) (stopThen a t) :=
  (bodyStop_same h).bind fun _ _ _ hu => .done _ hu

theorem bodyWriteBytes_same (h : SameBus s t) (d : Addr7) (n : Nat) (ss : Bool) :
    SameRun (bodyWriteBytes d n ss s) (bodyWriteBytes d n ss t) := by
  have hp : s.cfg.wbPropagateDataNak = t.cfg.wbPropagateDataNak :=
    h.read (fun s => s.cfg.wbPropagateDataNak) fun _ => rfl
  unfold bodyWriteBytes
  rw [← h.buf, ← hp]
  exact (bodyStart_same h _ d .W).onSuccess fun hu =>
    (writeLoop_same hu _ _ _ _).bind fun _ _ _ hv => (stopIf_same hv ss).bind fun _ _ _ hw => .done _ hw

theorem bodyReadBytes_same (h : SameBus s t) (d : Addr7) (n : Nat) (ss : Bool) :
    SameRun (bodyReadBytes d n ss s) (bodyReadBytes d n ss t) := by
  unfold bodyReadBytes
  rw [← h.buf]
  exact (bodyStart_same h _ d .R).onSuccess fun hu =>
    (readPhase_same hu _ n).bind fun _ _ _ hv => (stopIf_same hv ss).bind fun _ _ _ hw => .done _ hw

theorem bodyWriteRegister_same (h : SameBus s t) (d : Addr7) (r v : Byte) :
    SameRun (bodyWriteRegister d r v s) (bodyWriteRegister d r v t) :=
  (bodyStart_same h _ d .W).onSuccess fun hu =>
    ((bodyWriteDevice_same hu r).onSuccess fun hv => bodyWriteDevice_same hv v).bind fun a _ _ hw => stopThen_same hw a

theorem bodyWriteRegisterMulti_same (h : SameBus s t) (d : Addr7) (r : Byte) (n : Nat) :
    SameRun (bodyWriteRegisterMulti d r n s) (bodyWriteRegisterMulti d r n t) := by
  have hc : s.cfg.wrmContinueAfterNak = t.cfg.wrmContinueAfterNak :=
    h.read (fun s => s.cfg.wrmContinueAfterNak) fun _ => rfl
  unfold bodyWriteRegisterMulti
  rw [← h.buf, ← hc]
  exact (bodyStart_same h _ d .W).onSuccess fun hu =>
    ((bodyWriteDevice_same hu r).onSuccess fun hv => writeLoop_same hv _ _ n 0).bind fun a _ _ hw => stopThen_same hw a

theorem selectRegister_same (h : SameBus s t) (d : Addr7) (r : Byte) :
    SameRun (selectRegister d r s) (selectRegister d r t) :=
  ((bodyStart_same h _ d .W).onSuccess fun hu => bodyWriteDevice_same hu r).onSuccess fun hv => bodyStart_same hv _ d .R

theorem bodyReadRegister_same (h : SameBus s t) (d : Addr7) (r : Byte) :
    SameRun (bodyReadRegister d r s) (bodyReadRegister d r t) := by
  refine (selectRegister_same h d r).bind fun a _ _ hu => ?_
  cases a with
  | true => exact (bodyRead_same hu false).bind fun _ _ _ hv => (bodyStop_same hv).bind fun _ _ _ hw => .done _ hw
  | false => exact .done _ hu

theorem bodyReadRegisterMulti_same (h : SameBus s t) (d : Addr7) (r : Byte) (n : Nat) :
    SameRun (bodyReadRegisterMulti d r n s) (bodyReadRegisterMulti d r n t) := by
  unfold bodyReadRegisterMulti
  rw [← h.buf]
  exact (selectRegister_same h d r).onSuccess fun hu =>
    (readPhase_same hu _ n).bind fun _ _ _ hv => stopThen_same hv true

theorem scanFound_same (h : SameBus s t) (a : Addr7) : SameRun (scanFound a s) (scanFound a t) :=
  (bodyRead_same h false).bind fun _ _ _ hu => (bodyStop_same hu).bind fun _ _ _ hv =>
    .done _ (runCallback_same (hv.map (logEvents [.found a]) fun _ => rfl) a)

theorem scanLoop_same (h : SameBus s t) (k a : Nat) : SameRun (scanLoop k a s) (scanLoop k a t) := by
  induction k generalizing a s t with
  | zero => exact .done _ h
  | succ k ih =>
    refine (bodyStart_same h _ _ .R).bind fun ok _ _ hu => SameRun.bind ?_ fun _ _ _ hv => ih hv (a + 1)
    cases ok with
    | true => exact scanFound_same hu _
    | false => exact .done _ hu

/-! ### Operations and steps -/

theorem SameRun.complete {r q : Run α} (h : SameRun r q) (write : α → State → State)
    (hw : ∀ a s, busLevel (write a (busLevel s)) = busLevel (write a s)) :
    SameBus (complete write r) (complete write q) := by
  cases h with
  | done a hs => exact hs.map (fun s => endOp (write a s)) fun s => congrArg endOp (hw a s)
  | halt hs => exact hs

theorem ran_same (h : SameBus s t) (i : Instr) : SameBus (ran i s) (ran i t) := by
  have hb := begun_same h i
  cases i with
  | start d dir => exact (bodyStart_same hb _ d dir).complete writeOk fun _ _ => rfl
  | repeatStart d dir => exact (bodyStart_same hb _ d dir).complete writeOk fun _ _ => rfl
  | stop => exact (bodyStop_same hb).complete writeNothing fun _ _ => rfl
  | writeDevice b => exact (bodyWriteDevice_same hb b).complete writeOk fun _ _ => rfl
  | readDeviceWithAck => exact (bodyRead_same hb true).complete writeRd fun _ _ => rfl
  | readDeviceWithNak => exact (bodyRead_same hb false).complete writeRd fun _ _ => rfl
  | writeBytes d n ss => exact (bodyWriteBytes_same hb d n ss).complete writeOk fun _ _ => rfl
  | readBytes d n ss => exact (bodyReadBytes_same hb d n ss).complete writeOk fun _ _ => rfl
  | writeRegister d r v => exact (bodyWriteRegister_same hb d r v).complete writeOk fun _ _ => rfl
  | writeRegisterMulti d r n => exact (bodyWriteRegisterMulti_same hb d r n).complete writeOk fun _ _ => rfl
  | readRegister d r => exact (bodyReadRegister_same hb d r).complete writeOkRd fun _ _ => rfl
  | readRegisterMulti d r n => exact (bodyReadRegisterMulti_same hb d r n).complete writeOk fun _ _ => rfl
  | scanBus => exact (scanLoop_same hb 126 1).complete writeNothing fun _ _ => rfl

theorem exec_same (h : SameBus s t) (i : Instr) : SameAnswer (exec i s) (exec i t) := by
  have hr : refusalOf i s = refusalOf i t := h.read (refusalOf i) fun _ => rfl
  rw [exec_eq, exec_eq, ← h.hung, ← h.inOp, ← hr]
  split
  · rfl
  · split
    · rfl
    · cases refusalOf i s with
      | some _ => rfl
      | none => exact ran_same h i

theorem step_same (h : SameBus s t) : SameAnswer (step s) (step t) := by
  have hm : dueMove s = dueMove t := h.read dueMove fun _ => rfl
  have hc : fetch s = fetch t := h.read fetch fun _ => rfl
  unfold step
  rw [← h.hung, ← h.inOp, ← hm, ← hc]
  split
  · rfl
  · split
    · rfl
    · cases dueMove s with
      | some m => exact performMove_same (h.map dropMove fun _ => rfl) m
      | none =>
        cases fetch s with
        | none => rfl
        | some c =>
          cases hd : decode c.word with
          | error e => cases e; simp only [hd]; rfl
          | ok i => simpa only [hd] using exec_same (h.map (issue c) fun _ => rfl) i

end

/-- Settles O53: nothing but a backend's own step reads the backend or the peripherals' registers, and what that step writes
the bus level does not show; the log and the wire trace are read off the bus level. -/
theorem backendsAreEquivalent : Obligations.BackendsAreEquivalent :=
  ⟨fun _ _ => step_same, fun _ _ h => ⟨h.read State.log fun _ => rfl, h.read State.wire fun _ => rfl⟩⟩

end Sys2Proof.Machine
end

section
/-! Reset: the state it leaves meets the launch premises of R154 that speak of reset. -/

namespace Sys2Proof.Machine

/-- R38's rows that R150 lists are the fields of `State.reset`. -/
theorem reset_inResetState : InResetState State.reset :=
  ⟨rfl, rfl, rfl, rfl, rfl, rfl, rfl, rfl, rfl⟩

theorem reset_noMarks : NoMarks State.reset :=
  ⟨rfl, rfl, rfl⟩

/-- Settles O8: the reset state is R150's, and no mark is set in it. -/
theorem resetValues : Obligations.ResetValues := by
  obtain ⟨hphase, howned, hlog, hok, hrd, hinp, hinOp, hcause, hopIndex⟩ := reset_inResetState
  obtain ⟨hrefused, hfaulted, hhung⟩ := reset_noMarks
  exact ⟨hphase, howned, hlog, hok, hrd, hinp, hinOp, hcause, hopIndex, hrefused, hfaulted, hhung⟩

end Sys2Proof.Machine
end

section
/-! The command word: decoding and encoding are inverse, the rows of R64 are disjoint, and what makes a word illegal. -/

namespace Sys2Proof

/-! ### `OP` decides between the rows -/

theorem opField_and (w v : Word32) : opField (w &&& v) = opField w &&& opField v := by
  simp [opField, BitVec.extractLsb'_and]

/-- A row whose mask holds all of `OP` selects only words with its own `OP`. -/
theorem Row.opField_of_selects {r : Row} (hmask : opField r.mask = 0xF#4) {w : Word32} (h : r.selects w = true) :
    opField w = opField r.matchBits := by
  have hw : w &&& r.mask = r.matchBits := by simpa [Row.selects] using h
  rw [← hw, opField_and, hmask]
  exact (BitVec.and_allOnes (x := opField w)).symm

theorem opField_mask_of_mem {r : Row} (h : r ∈ opcodeRows) : opField r.mask = 0xF#4 := by
  revert r
  decide

/-- No two rows of R64 have the same `OP`. -/
theorem opcodeRows_opFields_differ : opcodeRows.Pairwise fun r q => opField r.matchBits ≠ opField q.matchBits := by
  decide

/-- Settles O3: two rows that select one word have its `OP`, and the rows' `OP`s differ. -/
theorem opcodeRowsDisjoint : Obligations.OpcodeRowsDisjoint := by
  intro w
  refine opcodeRows_opFields_differ.imp_of_mem fun hr hq hne h => hne ?_
  rw [← Row.opField_of_selects (opField_mask_of_mem hr) h.1, ← Row.opField_of_selects (opField_mask_of_mem hq) h.2]

/-! ### Encoding an operation and decoding a word -/

/-- The operation of the same row whose operands are the fields of the word that R63 lists for it. -/
def Instr.withFieldsOf (w : Word32) : Instr → Instr
  | .start _ _ => .start (devField w) (dirField w)
  | .repeatStart _ _ => .repeatStart (devField w) (dirField w)
  | .stop => .stop
  | .writeDevice _ => .writeDevice (bField w)
  | .readDeviceWithAck => .readDeviceWithAck
  | .readDeviceWithNak => .readDeviceWithNak
  | .writeBytes _ _ _ => .writeBytes (devField w) (countField w) (ssField w)
  | .readBytes _ _ _ => .readBytes (devField w) (countField w) (ssField w)
  | .writeRegister _ _ _ => .writeRegister (devField w) (aField w) (bField w)
  | .writeRegisterMulti _ _ _ => .writeRegisterMulti (devField w) (aField w) (countField w)
  | .readRegister _ _ => .readRegister (devField w) (aField w)
  | .readRegisterMulti _ _ _ => .readRegisterMulti (devField w) (aField w) (countField w)
  | .scanBus => .scanBus

theorem Instr.row_mem (i : Instr) : i.row ∈ opcodeRows := by
  cases i <;> simp [opcodeRows, Instr.row]

/-- A row other than the one that selects the word does not. -/
theorem Row.not_selects {r q : Row} (hr : r ∈ opcodeRows) (hq : q ∈ opcodeRows) {w : Word32}
    (h : r.selects w = true) (hne : opField q.matchBits ≠ opField r.matchBits) : q.selects w = false := by
  rw [Bool.eq_false_iff]
  intro h'
  exact hne ((Row.opField_of_selects (opField_mask_of_mem hq) h').symm.trans
    (Row.opField_of_selects (opField_mask_of_mem hr) h))

/-- A word that an operation's row selects decodes to that operation with the word's fields for operands: `OP` rules the
rows tried before it out. -/
theorem decode_of_selects {i : Instr} {w : Word32} (h : i.row.selects w = true) : decode w = .ok (i.withFieldsOf w) := by
  have other (q : Row) (hq : q ∈ opcodeRows) (hne : opField q.matchBits ≠ opField i.row.matchBits) : q.selects w = false :=
    Row.not_selects i.row_mem hq h hne
  cases i <;> simp only [Instr.row] at h other <;> simp (disch := decide) [decode, Instr.withFieldsOf, h, other]

theorem encode_selects (i : Instr) : i.row.selects (encode i) = true := by
  cases i with
  | start d dir => exact Laws.RowSelects.start d dir
  | repeatStart d dir => exact Laws.RowSelects.repeatStart d dir
  | stop => exact Laws.RowSelects.stop
  | writeDevice b => exact Laws.RowSelects.writeDevice b
  | readDeviceWithAck => exact Laws.RowSelects.readDeviceWithAck
  | readDeviceWithNak => exact Laws.RowSelects.readDeviceWithNak
  | writeBytes d n ss => exact Laws.RowSelects.writeBytes d n ss
  | readBytes d n ss => exact Laws.RowSelects.readBytes d n ss
  | writeRegister d r v => exact Laws.RowSelects.writeRegister d r v
  | writeRegisterMulti d r n => exact Laws.RowSelects.writeRegisterMulti d r n
  | readRegister d r => exact Laws.RowSelects.readRegister d r
  | readRegisterMulti d r n => exact Laws.RowSelects.readRegisterMulti d r n
  | scanBus => exact Laws.RowSelects.scanBus

@[simp] theorem countField_packWord (op : BitVec 4) (ss : Bool) (d : Addr7) (dir : BitVec 1) (a : Byte) {n : Nat}
    (h : countFits n = true) : countField (packWord op ss d dir a (countByte n)) = n := by
  rw [countField, bField_packWord, countByte_toNat h]

/-- The command word of a well-formed operation holds its operands in the fields R63 lists for it. -/
theorem withFieldsOf_encode {i : Instr} (h : i.wellFormed = true) : i.withFieldsOf (encode i) = i := by
  cases i with
  | writeBytes d n ss | readBytes d n ss | writeRegisterMulti d r n | readRegisterMulti d r n =>
    have hn : countFits n = true := h
    simp [Instr.withFieldsOf, encode, hn]
  | _ => simp [Instr.withFieldsOf, encode]

/-- Settles O1: the command word is selected by the operation's own row, and its fields are the operation's operands. -/
theorem decodeOfEncode : Obligations.DecodeOfEncode := fun i hi => by
  rw [decode_of_selects (encode_selects i), withFieldsOf_encode hi]

/-- A word that an operation's row selects is the command word of that operation with the word's fields for operands: the
fields the operation does not use are zero. -/
theorem encode_withFieldsOf {i : Instr} {w : Word32} (h : i.row.selects w = true) : encode (i.withFieldsOf w) = w := by
  cases i <;>
    simp only [Instr.row, rowStart_selects, rowRepeatStart_selects, rowStop_selects, rowWriteDevice_selects,
      rowReadDeviceWithAck_selects, rowReadDeviceWithNak_selects, rowWriteBytes_selects, rowReadBytes_selects,
      rowWriteRegister_selects, rowWriteRegisterMulti_selects, rowReadRegister_selects, rowReadRegisterMulti_selects,
      rowScanBus_selects] at h
  all_goals
    have hrsv : rsvField w = 0#3 := by simp [h]
    simpa [encode, Instr.withFieldsOf, dirBit, h] using packWord_fields hrsv

/-- Every word that decodes is selected by the row of what it decodes to, whose operands are the word's fields. -/
theorem selects_of_decode {w : Word32} {i : Instr} (h : decode w = .ok i) : i.row.selects w = true ∧ i.withFieldsOf w = i := by
  rcases decode_ok h with ⟨hs, rfl⟩ | ⟨hs, rfl⟩ | ⟨hs, rfl⟩ | ⟨hs, rfl⟩ | ⟨hs, rfl⟩ | ⟨hs, rfl⟩ | ⟨hs, rfl⟩ |
      ⟨hs, rfl⟩ | ⟨hs, rfl⟩ | ⟨hs, rfl⟩ | ⟨hs, rfl⟩ | ⟨hs, rfl⟩ | ⟨hs, rfl⟩ <;>
    exact ⟨hs, rfl⟩

theorem withFieldsOf_wellFormed (i : Instr) (w : Word32) : (i.withFieldsOf w).wellFormed = true := by
  cases i <;> simp [Instr.withFieldsOf, Instr.wellFormed]

/-- Settles O2: a word that decodes is selected by a row, and so is the word encoded from its own fields. -/
theorem encodeOfDecode : Obligations.EncodeOfDecode := by
  intro w i h
  obtain ⟨hsel, hi⟩ := selects_of_decode h
  rw [← hi]
  exact ⟨encode_withFieldsOf hsel, withFieldsOf_wellFormed i w⟩

/-! ### Illegal words, fields and lines -/

theorem exists_row_eq {r : Row} (h : r ∈ opcodeRows) : ∃ i : Instr, i.row = r := by
  simp only [opcodeRows, List.mem_cons, List.not_mem_nil, or_false] at h
  rcases h with rfl | rfl | rfl | rfl | rfl | rfl | rfl | rfl | rfl | rfl | rfl | rfl | rfl
  exacts [⟨.start 0 .W, rfl⟩, ⟨.repeatStart 0 .W, rfl⟩, ⟨.stop, rfl⟩, ⟨.writeDevice 0, rfl⟩, ⟨.readDeviceWithAck, rfl⟩,
    ⟨.readDeviceWithNak, rfl⟩, ⟨.writeBytes 0 0 false, rfl⟩, ⟨.readBytes 0 0 false, rfl⟩, ⟨.writeRegister 0 0 0, rfl⟩,
    ⟨.writeRegisterMulti 0 0 0, rfl⟩, ⟨.readRegister 0 0, rfl⟩, ⟨.readRegisterMulti 0 0 0, rfl⟩, ⟨.scanBus, rfl⟩]

/-- A word is illegal exactly where no row selects it (R66). -/
theorem decode_eq_error {w : Word32} : decode w = .error .illegalEncoding ↔ ∀ r ∈ opcodeRows, ¬r.selects w = true := by
  constructor
  · intro h r hr hs
    obtain ⟨i, rfl⟩ := exists_row_eq hr
    simp [decode_of_selects hs] at h
  · intro h
    cases hd : decode w with
    | error e => cases e; rfl
    | ok i => exact absurd (selects_of_decode hd).1 (h i.row i.row_mem)

/-- The sixteen values of `OP`. -/
theorem opField_values (op : BitVec 4) : op = 0x0#4 ∨ op = 0x1#4 ∨ op = 0x2#4 ∨ op = 0x3#4 ∨ op = 0x4#4 ∨ op = 0x5#4 ∨
    op = 0x6#4 ∨ op = 0x7#4 ∨ op = 0x8#4 ∨ op = 0x9#4 ∨ op = 0xA#4 ∨ op = 0xB#4 ∨ op = 0xC#4 ∨ op = 0xD#4 ∨
    op = 0xE#4 ∨ op = 0xF#4 := by
  revert op
  decide

theorem dirField_ne_W {w : Word32} : ¬dirField w = .W ↔ dirField w = .R := by
  cases dirField w <;> simp

/-- Settles O4: no row selects the word; for each value of `OP` at most one row could, and its other conditions are the
must-be-zero fields. -/
theorem illegalEncodingByFields : Obligations.IllegalEncodingByFields := by
  intro w
  rw [decode_eq_error]
  simp only [opcodeRows, List.forall_mem_cons, rowStart_selects, rowRepeatStart_selects, rowStop_selects,
    rowWriteDevice_selects, rowReadDeviceWithAck_selects, rowReadDeviceWithNak_selects, rowWriteBytes_selects,
    rowReadBytes_selects, rowWriteRegister_selects, rowWriteRegisterMulti_selects, rowReadRegister_selects,
    rowReadRegisterMulti_selects, rowScanBus_selects]
  rcases opField_values (opField w) with h | h | h | h | h | h | h | h | h | h | h | h | h | h | h | h <;>
    simp [h, ← dirField_ne_W] <;> grind

/-- Settles O5: each word and its operation, by running the decoder and the encoder. -/
theorem exampleWordsDecode : Obligations.ExampleWordsDecode := by
  refine ⟨?_, ?_⟩ <;> simp only [List.forall_mem_cons]
  · refine ⟨?_, ?_, ?_, ?_, ?_, ?_, ?_, ?_, ?_, ?_, ?_, ?_, ?_, ?_, ?_, ?_, List.forall_mem_nil _⟩ <;> decide
  · refine ⟨?_, ?_, ?_, ?_, ?_, ?_, ?_, List.forall_mem_nil _⟩ <;> decide

theorem slaByte_eq_append (d : Addr7) (dir : Dir) : slaByte d dir = d ++ dirBit dir := by
  refine BitVec.eq_of_getLsbD_eq fun k hk => ?_
  rw [BitVec.getLsbD_append]
  cases k with
  | zero => simp [slaByte]
  | succ k => simp [slaByte, hk]

theorem dirBit_dirOfBit (x : Bool) : dirBit (dirOfBit x) = BitVec.ofBool x := by
  cases x <;> rfl

/-- Every byte is its upper seven bits and its lowest. -/
theorem append_lowest (b : Byte) : b.extractLsb' 1 7 ++ BitVec.ofBool (b.getLsbD 0) = b := by
  refine BitVec.eq_of_getLsbD_eq fun k hk => ?_
  rw [BitVec.getLsbD_append]
  cases k with
  | zero => simp
  | succ k => simpa [Nat.add_comm] using fun _ => Nat.lt_of_succ_lt_succ hk

theorem append_toNat {m n : Nat} (x : BitVec m) (y : BitVec n) : (x ++ y).toNat = x.toNat * 2 ^ n + y.toNat := by
  rw [BitVec.toNat_append, ← Nat.shiftLeft_add_eq_or_of_lt y.isLt, Nat.shiftLeft_eq]

/-- Settles O6: the address byte is the concatenation; the address and direction of a byte are its bits 7:1 and 0. -/
theorem addressByteIsShiftedAddress : Obligations.AddressByteIsShiftedAddress := by
  refine ⟨fun d dir => ⟨slaByte_eq_append d dir, ?_⟩, fun b => ⟨b.extractLsb' 1 7, dirOfBit (b.getLsbD 0), ?_⟩⟩
  · rw [slaByte_eq_append, append_toNat]
    cases dir <;> simp [dirBit] <;> omega
  · rw [slaByte_eq_append, dirBit_dirOfBit, append_lowest]

/-- A line is in range exactly where it is well formed, and then its word is its operation's. -/
theorem lineIs_of {l : AsmLine} {inRange : Prop} {op d a b : Nat} {ss : Bool} {dir : Dir}
    (hr : l.wellFormed = true ↔ inRange) (hf : inRange → Machine.FieldsAre (encode (Machine.AsmLine.toInstr l)) op ss d dir a b) :
    Machine.LineIs l inRange op ss d dir a b := by
  refine ⟨fun h => ⟨encode (Machine.AsmLine.toInstr l), ?_, hf h⟩, fun h => ?_⟩
  · simp [Machine.assembleWord, Machine.assemble, hr.2 h]
  · simp [Machine.assembleWord, Machine.assemble, hr, h]

theorem toInstr_wellFormed {l : AsmLine} (h : l.wellFormed = true) : (Machine.AsmLine.toInstr l).wellFormed = true := by
  cases l <;> simp_all [AsmLine.wellFormed, Instr.wellFormed, Machine.AsmLine.toInstr]

theorem assembleWord_eq_some {l : AsmLine} {w : Word32} :
    Machine.assembleWord l = some w ↔ l.wellFormed = true ∧ encode (Machine.AsmLine.toInstr l) = w := by
  simp [Machine.assembleWord, Machine.assemble]

theorem assembleWord_eq_none {l : AsmLine} : Machine.assembleWord l = none ↔ l.wellFormed = false := by
  simp [Machine.assembleWord, Machine.assemble]

theorem sendStopOf_some {k : Nat} (h : k < 2) : Machine.sendStopOf (some k) = (k == 1) := by
  interval_cases k <;> rfl

/-- Settles O7: a line is well formed exactly in its operands' ranges, and there its operation's fields are its numbers. -/
theorem assemblyOfLines : Obligations.AssemblyOfLines := by
  refine ⟨fun d r v n k dir => ⟨?_, ?_, ?_, ?_, ?_, ?_, ?_, ?_, ?_, ?_, ?_, ?_, ?_, ?_, ?_, rfl, rfl⟩,
    fun l => assembleWord_eq_none, fun l w h => ?_⟩
  case refine_16 =>
    obtain ⟨hl, rfl⟩ := assembleWord_eq_some.1 h
    exact decodeOfEncode _ (toInstr_wellFormed hl)
  all_goals
    refine lineIs_of (by simp [AsmLine.wellFormed, deviceFits, byteFits, countFits, sendStopFits, and_assoc]) fun h => ?_
  case refine_7 | refine_9 => simp [Machine.FieldsAre, encode, Machine.AsmLine.toInstr, countByte, sendStopOf_some h.2.2, h]
  all_goals simp [Machine.FieldsAre, encode, Machine.AsmLine.toInstr, Machine.sendStopOf, countByte, h]

theorem getLsbD_iff (w : Word32) (k : Nat) : w.getLsbD k = true ↔ w.toNat / 2 ^ k % 2 = 1 := by
  rw [BitVec.getLsbD, Nat.testBit_eq_decide_div_mod_eq, decide_eq_true_iff]

theorem dirField_eq_R (w : Word32) : dirField w = .R ↔ w.getLsbD 16 = true := by
  unfold dirField dirOfBit
  cases w.getLsbD 16 <;> simp

/-- The `OP` of a word that decodes is its operation's, and the operands are the word's fields (R63). -/
theorem decode_operands {w : Word32} {i : Instr} (h : decode w = .ok i) :
    opField w = opField i.row.matchBits ∧ i.withFieldsOf w = i := by
  obtain ⟨hsel, hi⟩ := selects_of_decode h
  exact ⟨Row.opField_of_selects (opField_mask_of_mem i.row_mem) hsel, hi⟩

/-- Settles O57: each field is its bits, and the operation's row gives `OP` and takes the operands from the fields. -/
theorem operandsAreTheirBits : Obligations.OperandsAreTheirBits := by
  intro w
  have hw := w.isLt
  refine ⟨⟨?_, getLsbD_iff w 27, ?_, ?_, (dirField_eq_R w).trans (getLsbD_iff w 16), ?_, ?_⟩, fun d dir h => ?_,
    fun d dir h => ?_, fun h => (decode_operands h).1, fun b h => ?_, fun h => (decode_operands h).1,
    fun h => (decode_operands h).1, fun d n ss h => ?_, fun d n ss h => ?_, fun d r v h => ?_, fun d r n h => ?_,
    fun d r h => ?_, fun d r n h => ?_, fun h => (decode_operands h).1⟩
  case refine_1 | refine_2 | refine_3 | refine_4 | refine_5 =>
    simp only [opField, rsvField, devField, aField, bField, BitVec.extractLsb'_toNat, Nat.shiftRight_eq_div_pow] <;> omega
  all_goals
    obtain ⟨hop, hi⟩ := decode_operands h
    simp only [Instr.withFieldsOf, countField, Instr.row] at hi hop
    cases hi
    exact ⟨hop, by simp⟩

end Sys2Proof
end

section
/-! The ends of an operation, said once: what every one leaves alone, and the three ways one can end. -/

namespace Sys2Proof.Machine

/-! ### What every operation leaves alone, and how it ends -/

/-- What an operation leaves as it was, and the input registers as it latches them (R19, R21, R25). -/
structure Framed (i : Instr) (s t : State) : Prop where
  cfg : t.cfg = s.cfg
  ops : t.ops = s.ops
  moves : t.moves = s.moves
  inp : t.inp = (begun i s).inp
  buf : t.buf = s.buf
  cb : t.cb = s.cb
  faulted : t.faulted = s.faulted

/-- The three ends of an operation that answers a next state: it returns, or it stays in a `Wait()`, blocked where there is
no bound and hung where there is one (R25, R34, R135). -/
inductive Ended (s t : State) : Prop where
  | returned (inOp : t.inOp = false) (hung : t.hung = false) (opIndex : t.opIndex = s.opIndex + 1)
  | blocked (bound : s.cfg.waitBound = none) (inOp : t.inOp = true) (hung : t.hung = false)
      (opIndex : t.opIndex = s.opIndex) (ok : t.ok = s.ok) (rd : t.rd = s.rd)
  | hung (bound : s.cfg.waitBound ≠ none) (inOp : t.inOp = false) (hung : t.hung = true)
      (log : t.log.getLast? = some .hang) (opIndex : t.opIndex = s.opIndex) (ok : t.ok = s.ok) (rd : t.rd = s.rd)

theorem Kept.framed {i : Instr} {s u : State} (h : Kept (begun i s) u) : Framed i s u := by
  obtain ⟨inp, hb⟩ := begun_eq i s
  refine ⟨?_, ?_, ?_, h.inp, ?_, ?_, ?_⟩
  · rw [h.cfg, hb]
  · rw [h.ops, hb]
  · rw [h.moves, hb]
  · rw [h.buf, hb]
  · rw [h.cb, hb]
  · rw [h.faulted, hb]

theorem exec_framed {i : Instr} {s t : State} (h : exec i s = .next t) : Framed i s t := by
  obtain ⟨-, -, ⟨u, ⟨hk, -, -⟩, hr⟩ | ⟨hk, -⟩⟩ := exec_going h
  · obtain ⟨ok, rd, rfl⟩ := hr.rest
    have hf := hk.framed
    exact ⟨hf.cfg, hf.ops, hf.moves, hf.inp, hf.buf, hf.cb, hf.faulted⟩
  · exact hk.framed

theorem exec_ended {i : Instr} {s t : State} (h : exec i s = .next t) : Ended s t := by
  obtain ⟨hhung, -, hends⟩ := exec_going h
  obtain ⟨inp, hb⟩ := begun_eq i s
  rw [Ends, hb] at hends
  obtain ⟨u, ⟨hk, -, hh⟩, hr⟩ | ⟨hk, ⟨hbound, hi, hh⟩ | ⟨hbound, hi, hh, hl⟩⟩ := hends
  · obtain ⟨ok, rd, rfl⟩ := hr.rest
    exact .returned rfl (hh.trans hhung) (congrArg (· + 1) hk.opIndex)
  · exact .blocked hbound hi (hh.trans hhung) hk.opIndex hk.ok hk.rd
  · exact .hung hbound hi hh hl hk.opIndex hk.ok hk.rd

/-- Settles O12: by the three ends of an operation. -/
theorem opIndexAdvancesByOne : Obligations.OpIndexAdvancesByOne := by
  intro i s t h
  cases exec_ended h with
  | returned hi hh hx => exact ⟨fun _ => hx, fun hn => absurd ⟨hi, hh⟩ hn⟩
  | blocked _ hi _ hx => exact ⟨fun hr => absurd hr.1 (by simp [hi]), fun _ => hx⟩
  | hung _ _ hh _ hx => exact ⟨fun hr => absurd hr.2 (by simp [hh]), fun _ => hx⟩

/-! ### The caller's moves -/

/-- A step before which a move of the caller is due makes that move. -/
theorem step_move {s : State} {m : CallerMove} (h : Ready s) (hm : dueMove s = some m) :
    step s = .next (performMove m (dropMove s)) := by
  simp [step, h.1, h.2, hm]

/-- A step with no move due runs the operation its command decodes to. -/
theorem step_exec {s : State} {c : Command} {i : Instr} (h : Ready s) (hm : dueMove s = none) (hc : fetch s = some c)
    (hd : decode c.word = .ok i) : step s = exec i (issue c s) := by
  simp [step, h.1, h.2, hm, hc, hd]

theorem step_illegal {s : State} {c : Command} (h : Ready s) (hm : dueMove s = none) (hc : fetch s = some c)
    (hd : decode c.word = .error .illegalEncoding) : step s = .refused .illegalEncoding := by
  simp [step, h.1, h.2, hm, hc, hd]

theorem step_runEnded {s : State} (h : Ready s) (hm : dueMove s = none) (hc : fetch s = none) :
    step s = .fault .runEnded := by
  simp [step, h.1, h.2, hm, hc]

theorem step_hung {s : State} (h : s.hung = true) : step s = .fault .hung := by
  simp [step, h]

theorem step_blocked {s : State} (h : s.hung = false) (h' : s.inOp = true) : step s = .fault .blocked := by
  simp [step, h, h']

/-- A relation that holds of each move of the caller and of each operation, issued with its buffer and callback, holds of
every step. -/
theorem step_cases {R : State → State → Prop} (hmove : ∀ s m, dueMove s = some m → R s (performMove m (dropMove s)))
    (hexec : ∀ s c i t, fetch s = some c → exec i (issue c s) = .next t → R s t) {s t : State} (h : step s = .next t) :
    R s t := by
  obtain ⟨-, -, ⟨m, hm, rfl⟩ | ⟨c, i, -, hc, -, h⟩⟩ := step_next h
  · exact hmove s m hm
  · exact hexec s c i t hc h

/-! ### Steps: what is decoded, what is placed, what only grows -/

/-- Settles O10: `step` by its branches, past the hang, the block and the caller's moves. -/
theorem stepRunsDecodedOperation : Obligations.StepRunsDecodedOperation :=
  fun _ h hm => ⟨fun _ _ hc hd => step_exec h hm hc hd, fun _ hc hd => step_illegal h hm hc hd,
    fun hl => step_runEnded h hm (List.getElem?_eq_none hl)⟩

theorem placeAt_getElem? (l : List Command) (n : Nat) (c : Command) : (placeAt l n c)[n]? = some c := by
  induction n generalizing l with
  | zero => cases l <;> rfl
  | succ n ih => cases l <;> simpa [placeAt] using ih _

theorem decode_of_decodeTableWord {w : Nat} {i : Instr} (h : decodeTableWord 32 w = some i) :
    decode (BitVec.ofNat 32 w) = .ok i := by
  unfold decodeTableWord at h
  split at h
  · split at h
    · next hd => rw [hd]; simpa using h
    · cases h
  · cases h

/-- Settles O11: the placed command stands at `opIndex`, and no move comes before it. -/
theorem stepRunsPlacedWord : Obligations.StepRunsPlacedWord := by
  intro s w i h hw
  have hc : fetch (s.withFetchWord 32 w) = some { word := BitVec.ofNat 32 w, buf := fetchBuffer, cb := [] } :=
    placeAt_getElem? _ _ _
  rw [step_exec (s := s.withFetchWord 32 w) h rfl hc (decode_of_decodeTableWord hw)]
  rfl

theorem performMove_eq (m : CallerMove) (s : State) :
    ∃ f mem, performMove m s = { s with faulted := f, mem := mem } ∧ (s.faulted = true → f = true) := by
  rcases performMove_cases m s with h | h | ⟨a, v, -, h⟩ <;> rw [h]
  · exact ⟨_, _, rfl, id⟩
  · exact ⟨_, _, rfl, fun _ => rfl⟩
  · exact ⟨_, _, rfl, id⟩

/-- Settles O52: no move and no operation changes them. -/
theorem parametersNeverChange : Obligations.ParametersNeverChange := by
  intro s t
  refine step_cases (R := fun s t => t.cfg = s.cfg ∧ t.ops = s.ops) (fun s m _ => ?_) fun s c i t _ h => ?_
  · obtain ⟨f, mem, h, -⟩ := performMove_eq m (dropMove s)
    rw [h]
    exact ⟨rfl, rfl⟩
  · have hf := exec_framed h
    exact ⟨hf.cfg, hf.ops⟩

/-- A relation that composes and asks only for the caller's memory and the mark `refused` to stay is one of every body. -/
theorem closed_of_sameMem {D : State → State → Prop} (hD : ∀ {s t}, SameMem s t → D s t)
    (htrans : ∀ {s t u}, D s t → D t u → D s u) : Closed D D where
  refl _ := hD ⟨rfl, rfl⟩
  trans := htrans
  stuck := htrans
  phase _ _ := hD ⟨rfl, rfl⟩
  owned _ _ := hD ⟨rfl, rfl⟩
  cause _ _ := hD ⟨rfl, rfl⟩
  env _ _ := hD ⟨rfl, rfl⟩
  log _ _ := hD ⟨rfl, rfl⟩
  wire _ _ := hD ⟨rfl, rfl⟩
  backend _ _ := hD ⟨rfl, rfl⟩
  gives s h := hD (closed_mem.gives s h)

/-- A relation of a state to the next that holds of every single update of a step: those of the bodies, the stores, the
callback's acts, the beginning and end of an operation, the caller's moves, and the handing over of a command. -/
structure OfUpdates (D : State → State → Prop) : Prop where
  body : Closed D D
  store : ∀ a v s, D s (storeByte a v s)
  act : ∀ act s, D s (callbackAct act s)
  begins : ∀ s inp, D s { s with inOp := true, inp := inp }
  ends : ∀ s ok rd, D s (endOp { s with ok := ok, rd := rd })
  moves : ∀ s moves, D s { s with moves := moves }
  faulted : ∀ s, D s { s with faulted := true }
  issue : ∀ c s, D s (issue c s)

section
variable {D : State → State → Prop} (U : OfUpdates D)
include U

theorem OfUpdates.exec {i : Instr} {s t : State} (h : exec i s = .next t) : D s t := by
  have hb : D s (begun i s) := by
    obtain ⟨inp, hb⟩ := begun_eq i s
    rw [hb]
    exact U.begins s inp
  obtain ⟨-, -, ⟨u, ⟨-, hu⟩, hr⟩ | ⟨-, hu⟩⟩ := exec_ends (closed_ends.and U.body)
    (fun _ _ _ v u => ⟨Going.storeByte _ v u, U.store _ v u⟩)
    (fun _ => ⟨fun h => h.1.1.cb, fun x _ u => ⟨Going.callbackAct x.2 u, U.act x.2 u⟩⟩) h
  · obtain ⟨ok, rd, rfl⟩ := hr.rest
    exact U.body.trans (U.body.trans hb hu) (U.ends u ok rd)
  · exact U.body.trans hb hu

theorem OfUpdates.step {s t : State} (h : step s = .next t) : D s t := by
  refine step_cases (R := D) (fun s m _ => ?_) (fun s c i t _ h => ?_) h
  · refine U.body.trans (U.moves s s.moves.tail) ?_
    rcases performMove_cases m (dropMove s) with h | h | ⟨a, v, -, h⟩ <;> rw [h]
    · exact U.body.refl _
    · exact U.faulted _
    · exact U.store a v _
  · exact U.body.trans (U.issue c s) (U.exec h)

end

/-- Every update keeps log and wire, or appends to one of them. -/
theorem grows_ofUpdates : OfUpdates Grows where
  body := closed_grows
  store _ _ _ := .of_eq rfl rfl
  act act _ := by cases act <;> exact .of_eq rfl rfl
  begins _ _ := .of_eq rfl rfl
  ends _ _ _ := .of_eq rfl rfl
  moves _ _ := .of_eq rfl rfl
  faulted _ := .of_eq rfl rfl
  issue _ _ := .of_eq rfl rfl

/-- Settles O51: every update appends. -/
theorem logAndWireOnlyGrow : Obligations.LogAndWireOnlyGrow :=
  fun _ _ => grows_ofUpdates.step

/-- The peripheral of the backend that is not compiled in is as it was. -/
structure OtherBackendKept (s t : State) : Prop where
  backend : t.cfg.backend = s.cfg.backend
  usi : s.cfg.backend = .hardwareTwi → t.usi = s.usi
  twi : s.cfg.backend = .usiTwi → t.twi = s.twi

theorem OtherBackendKept.of_eq {s t : State} (hc : t.cfg = s.cfg) (hu : t.usi = s.usi) (ht : t.twi = s.twi) :
    OtherBackendKept s t :=
  ⟨by rw [hc], fun _ => hu, fun _ => ht⟩

theorem OtherBackendKept.trans {s t u : State} (h : OtherBackendKept s t) (k : OtherBackendKept t u) : OtherBackendKept s u :=
  ⟨k.backend.trans h.backend, fun e => (k.usi (h.backend.trans e)).trans (h.usi e),
    fun e => (k.twi (h.backend.trans e)).trans (h.twi e)⟩

theorem otherBackendKept_giveUp (s : State) : OtherBackendKept s (giveUp s) := by
  unfold giveUp
  split <;> exact .of_eq rfl rfl rfl

/-- `onBackend` alone writes the peripherals, and only the compiled-in one's. -/
theorem otherBackendKept_ofUpdates : OfUpdates OtherBackendKept where
  body :=
    { refl _ := .of_eq rfl rfl rfl
      trans := .trans
      stuck := .trans
      phase _ _ := .of_eq rfl rfl rfl
      owned _ _ := .of_eq rfl rfl rfl
      cause _ _ := .of_eq rfl rfl rfl
      env _ _ := .of_eq rfl rfl rfl
      log _ _ := .of_eq rfl rfl rfl
      wire _ _ := .of_eq rfl rfl rfl
      backend _ _ := ⟨rfl, fun e => by simp [onBackend, e], fun e => by simp [onBackend, e]⟩
      gives s _ := OtherBackendKept.trans (t := popWait s) (.of_eq rfl rfl rfl) (otherBackendKept_giveUp _) }
  store _ _ _ := .of_eq rfl rfl rfl
  act act _ := by cases act <;> exact .of_eq rfl rfl rfl
  begins _ _ := .of_eq rfl rfl rfl
  ends _ _ _ := .of_eq rfl rfl rfl
  moves _ _ := .of_eq rfl rfl rfl
  faulted _ := .of_eq rfl rfl rfl
  issue _ _ := .of_eq rfl rfl rfl

/-- Settles O54: no update of the other backend's peripheral is made. -/
theorem otherBackendIsUntouched : Obligations.OtherBackendIsUntouched := by
  intro s t h
  have hk : OtherBackendKept s t := otherBackendKept_ofUpdates.step h
  exact ⟨hk.usi, hk.twi⟩

/-- A mark that is set stays set (R35). -/
def MarksKept (s t : State) : Prop := (s.refused = true → t.refused = true) ∧ (s.faulted = true → t.faulted = true)

theorem MarksKept.of_eq {s t : State} (hr : t.refused = s.refused) (hf : t.faulted = s.faulted) : MarksKept s t := by
  simp [MarksKept, hr, hf]

theorem MarksKept.trans {s t u : State} (h : MarksKept s t) (k : MarksKept t u) : MarksKept s u :=
  ⟨k.1 ∘ h.1, k.2 ∘ h.2⟩

/-- The marks are set by an operation the callback issues and by a model fault, and cleared by nothing. -/
theorem marksKept_ofUpdates : OfUpdates MarksKept where
  body :=
    { refl _ := .of_eq rfl rfl
      trans := .trans
      stuck := .trans
      phase _ _ := .of_eq rfl rfl
      owned _ _ := .of_eq rfl rfl
      cause _ _ := .of_eq rfl rfl
      env _ _ := .of_eq rfl rfl
      log _ _ := .of_eq rfl rfl
      wire _ _ := .of_eq rfl rfl
      backend _ _ := .of_eq rfl rfl
      gives s _ := .of_eq (giveUp_refused (popWait s)) (Kept.giveUp (popWait s)).faulted }
  store _ _ _ := .of_eq rfl rfl
  act act _ := by
    cases act with
    | store a v => exact .of_eq rfl rfl
    | issue w => exact ⟨fun _ => rfl, id⟩
  begins _ _ := .of_eq rfl rfl
  ends _ _ _ := .of_eq rfl rfl
  moves _ _ := .of_eq rfl rfl
  faulted _ := ⟨id, fun _ => rfl⟩
  issue _ _ := .of_eq rfl rfl

/-- Settles O18: a refused step is settled by the mark; the two unwritten reads are moves that raise the model fault; and no
update clears a mark. -/
theorem marksAreSetAndKept : Obligations.MarksAreSetAndKept := by
  refine ⟨fun s r h => by rw [h, settle], fun s h hm => ?_, fun s t => marksKept_ofUpdates.step⟩
  rcases hm with ⟨hm, hok⟩ | ⟨hm, hrd⟩
  · rw [step_move h hm, performMove_readOk, if_pos (show (dropMove s).ok = none from hok)]
    rfl
  · rw [step_move h hm, performMove_readRd, if_pos (show (dropMove s).rd = none from hrd)]
    rfl

theorem dueMove_cons {s : State} {k : Nat} {m : CallerMove} {ms : List (Nat × CallerMove)} (h : s.moves = (k, m) :: ms)
    (hk : k ≤ s.opIndex) : dueMove s = some m := by
  simp [dueMove, h, hk]

theorem dropMove_cons {s : State} {x : Nat × CallerMove} {ms : List (Nat × CallerMove)} (h : s.moves = x :: ms) :
    dropMove s = { s with moves := ms } := by
  simp [dropMove, h]

/-- Settles O58: the move at the head of the list is made, by its kind. -/
theorem callerMovesBetweenOperations : Obligations.CallerMovesBetweenOperations := by
  intro s k m ms h hm hk
  rw [step_move h (dueMove_cons hm hk), dropMove_cons hm]
  refine ⟨?_, ?_, ?_⟩
  · rintro rfl
    rw [performMove_readOk]
    cases hok : s.ok <;> simp
  · rintro rfl
    rw [performMove_readRd]
    cases hrd : s.rd <;> simp
  · rintro a v rfl
    exact ⟨_, rfl, rfl, fun hw => Memory.read_write_same hw a v, fun b hb => Memory.read_write_other s.mem v hb⟩

/-! ### Memory, reset and refusals -/

/-- Settles O47. -/
theorem memoryReadAfterWrite : Obligations.MemoryReadAfterWrite :=
  fun m a v => ⟨fun h => ⟨Memory.read_write_same h a v, Memory.write_wf h a v⟩, fun _ h => Memory.read_write_other m v h⟩

/-- Settles O9: R110's and R122's values are those of `TwiRegs.reset` and `UsiRegs.reset`. -/
theorem peripheralResetValues : Obligations.PeripheralResetValues := ⟨rfl, rfl, rfl, rfl, rfl⟩

/-- Settles O16: past the hang, `reentrant` is the first check, and no later one names it. -/
theorem reentrantExactlyDuringAnOperation : Obligations.ReentrantExactlyDuringAnOperation := by
  intro i s hhung
  refine ⟨fun h => ?_, exec_reentrant i hhung⟩
  by_contra hop
  have hr := (exec_eq_refused ⟨by simpa using hop, hhung⟩).1 h
  rcases refusalOf_cases hr with h | h | h <;> cases h

/-- Settles O17: the checks of `refusalOf` after the phase, in their order. -/
theorem operandRefusalsInOrder : Obligations.OperandRefusalsInOrder := by
  intro i s h hp
  rw [exec_eq_refused h, exec_eq_refused h]
  refine ⟨?_, ?_, fun hz hb => ⟨_, exec_next h.2 h.1 (refusalOf_eq_none.2 ⟨hp, hz, hb⟩)⟩⟩
  all_goals
    unfold refusalOf
    rw [if_neg (by simpa using hp)]
    cases readsNoByte i <;> simp

end Sys2Proof.Machine
end

section
/-! What each primitive's body comes to over every environment: its events, phase, ownership and cause where it returns, and
the state it is left in where it stays in a `Wait()`. -/

namespace Sys2Proof.Machine

/-! ### Results of sequences -/

theorem Run.Post.and {α : Type} {r : Run α} {D D' : α → State → Prop} {H H' : State → Prop} (h : r.Post D H)
    (h' : r.Post D' H') : r.Post (fun a t => D a t ∧ D' a t) fun u => H u ∧ H' u := by
  cases r with
  | done a t => exact ⟨h, h'⟩
  | halt u => exact ⟨h, h'⟩

theorem Run.Post.of_done {α : Type} {r : Run α} {D : α → State → Prop} {H : State → Prop} {a : α} {t : State}
    (h : r.Post D H) (hr : r = .done a t) : D a t := by
  subst hr
  exact h

theorem Run.Post.of_halt {α : Type} {r : Run α} {D : α → State → Prop} {H : State → Prop} {u : State}
    (h : r.Post D H) (hr : r = .halt u) : H u := by
  subst hr
  exact h

/-- The steps after a success are run where the step before succeeded, and else the result is `false` there. -/
theorem Run.Post.onSuccess {r : Run Bool} {f : State → Run Bool} {D D' : Bool → State → Prop} {H : State → Prop}
    (h : r.Post D H) (ht : ∀ t, D true t → (f t).Post D' H) (hf : ∀ t, D false t → D' false t) :
    (onSuccess r f).Post D' H := by
  refine h.bind (fun _ h => h) fun a t hd => ?_
  cases a with
  | true => exact ht t hd
  | false => exact hf t hd

/-! ### `Wait()` -/

/-- `u` is `s` held in a `Wait()`: blocked where there is no bound, hung where there is one, with `HANG` logged (R34,
R135). -/
structure Halted (s u : State) : Prop where
  log : u.log = s.log ++ hangEvents s.cfg.waitBound
  wire : u.wire = s.wire
  phase : u.phase = s.phase
  owned : u.owned = s.owned
  cause : u.cause = s.cause
  hung : u.hung = (s.hung || s.cfg.waitBound.isSome)
  inOp : u.inOp = (s.inOp && s.cfg.waitBound.isNone)

theorem halted_giveUp (s : State) : Halted s (giveUp (popWait s)) := by
  have hb : (popWait s).cfg.waitBound = s.cfg.waitBound := rfl
  unfold giveUp
  rw [hb]
  cases h : s.cfg.waitBound <;> constructor <;> simp [h, hangEvents]

theorem Halted.of_onBackend {f : TwiRegs → TwiRegs} {g : UsiRegs → UsiRegs} {s u : State} (h : Halted (onBackend f g s) u) :
    Halted s u :=
  ⟨h.log, h.wire, h.phase, h.owned, h.cause, h.hung, h.inOp⟩

section
variable (s : State)

@[simp] theorem startEstablished_log : (startEstablished s).log = s.log := rfl
@[simp] theorem startEstablished_wire :
    (startEstablished s).wire = s.wire ++ [if s.owned then .Sr else WireSym.S] := by
  cases h : s.owned <;> simp [startEstablished, h]
@[simp] theorem startEstablished_phase : (startEstablished s).phase = s.phase := rfl
@[simp] theorem startEstablished_owned : (startEstablished s).owned = true := rfl
@[simp] theorem startEstablished_cause : (startEstablished s).cause = s.cause := rfl
@[simp] theorem startEstablished_cfg : (startEstablished s).cfg = s.cfg := rfl
@[simp] theorem startEstablished_hung : (startEstablished s).hung = s.hung := rfl
@[simp] theorem startEstablished_inOp : (startEstablished s).inOp = s.inOp := rfl
@[simp] theorem startEstablished_mem : (startEstablished s).mem = s.mem := rfl
@[simp] theorem startEstablished_env : (startEstablished s).env = s.env := rfl

end

theorem Halted.of_startEstablished {f : TwiRegs → TwiRegs} {g : UsiRegs → UsiRegs} {s u : State}
    (h : Halted (startEstablished (popStartCond (popWait (onBackend f g s)))) u) : Halted (startEstablished s) u :=
  ⟨h.log, h.wire, h.phase, h.owned, h.cause, h.hung, h.inOp⟩

theorem wait_post (s : State) : (wait s).Post (fun _ t => t = popWait s) fun u => Halted s u := by
  unfold wait
  split
  · exact rfl
  · exact halted_giveUp s

theorem wait_bind_halted {α : Type} {s : State} (h : waitCompletes s = false) (f : Unit → State → Run α) :
    ∃ u, (wait s).bind f = .halt u ∧ Halted s u :=
  ⟨giveUp (popWait s), by rw [wait_halt h, Run.bind_halt], halted_giveUp s⟩

/-! ### The primitives -/

/-- The phase an acknowledged address byte leads to (R26). -/
def addressedPhase : Dir → Phase
  | .W => .tx
  | .R => .rx

/-- What a start that returned has done, by its result (R77): its address byte was acknowledged, it was not, or the start
condition was not established. -/
inductive StartEnd (tok : Event) (dir : Dir) (s t : State) : Bool → Prop where
  | acked (log : t.log = s.log ++ [tok, .addrAck]) (phase : t.phase = addressedPhase dir) (owned : t.owned = true) :
    StartEnd tok dir s t true
  | naked (log : t.log = s.log ++ [tok, .addrNak]) (phase : t.phase = .addrNak) (owned : t.owned = true) :
    StartEnd tok dir s t false
  | failed (log : t.log = s.log ++ [tok, .startFail]) (phase : t.phase = .startFail) : StartEnd tok dir s t false

theorem addressPhase_post (d : Addr7) (dir : Dir) (s : State) :
    (addressPhase d dir s).Post (fun a t => t.log = s.log ++ [if a then .addrAck else .addrNak] ∧
      t.phase = (if a then addressedPhase dir else .addrNak) ∧ t.owned = s.owned) fun u => Halted s u := by
  refine (wait_post _).bind (fun u h => h.of_onBackend) ?_
  rintro _ _ rfl
  unfold addressDone
  dsimp only
  split
  · exact ⟨by simp, by cases dir <;> simp [addressedPhase], by simp⟩
  · exact ⟨by simp, by simp, by simp⟩

theorem bodyStart_post (tok : Event) (d : Addr7) (dir : Dir) (s : State) :
    (bodyStart tok d dir s).Post (fun a t => StartEnd tok dir s t a)
      fun u => Halted (logEvents [tok] s) u ∨ Halted (startEstablished (logEvents [tok] s)) u := by
  refine (wait_post _).bind (fun u h => .inl h.of_onBackend) ?_
  rintro _ _ rfl
  split
  · refine (addressPhase_post d dir _).imp (fun a t ⟨hl, hp, ho⟩ => ?_) fun u h => .inr h.of_startEstablished
    cases a with
    | true => exact .acked (by simpa using hl) hp ho
    | false => exact .naked (by simpa using hl) hp ho
  · exact .failed (by simp [startFailed]) (by simp [startFailed])

theorem bodyStop_post (s : State) :
    (bodyStop s).Post (fun _ t => t.log = s.log ++ [.stop] ∧ t.phase = .idle ∧ t.owned = false ∧ t.cause = s.cause)
      fun u => Halted (logEvents [.stop] s) u := by
  refine (wait_post _).bind (fun u h => h.of_onBackend) ?_
  rintro _ _ rfl
  exact ⟨by simp, by simp, by simp, by simp⟩

theorem bodyWriteDevice_post (b : Byte) (s : State) :
    (bodyWriteDevice b s).Post (fun a t => t.log = s.log ++ [.write b, if a then .ack else .nak] ∧ t.phase = .tx ∧
      t.owned = s.owned) fun u => Halted (logEvents [.write b] s) u := by
  refine (wait_post _).bind (fun u h => h.of_onBackend) ?_
  rintro _ _ rfl
  exact ⟨by simp, by simp, by simp⟩

theorem bodyRead_post (ack : Bool) (s : State) :
    (bodyRead ack s).Post (fun v t => t.log = s.log ++ [.read v, if ack then .ack else .nak] ∧
      t.phase = (if ack then .rx else .rxEnd) ∧ t.owned = s.owned ∧ t.cause = s.cause) fun u => Halted s u := by
  refine (wait_post _).bind (fun u h => h.of_onBackend) ?_
  rintro _ _ rfl
  exact ⟨by simp, by simp, by simp, by simp⟩

/-! ### A first `Wait()` that completes, and one that does not -/

theorem bodyStop_returns {s : State} (h : waitCompletes (logEvents [.stop] s) = true) :
    ∃ t, bodyStop s = .done () t ∧ t.wire = s.wire ++ [.P] := by
  rw [bodyStop, wait_done (s := onBackend twiStopIssue usiStopIssue (logEvents [.stop] s)) h, Run.bind_done]
  exact ⟨_, rfl, by simp⟩

theorem bodyStop_halts {s : State} (h : waitCompletes (logEvents [.stop] s) = false) :
    ∃ u, bodyStop s = .halt u ∧ Halted (logEvents [.stop] s) u :=
  (wait_bind_halted (s := onBackend twiStopIssue usiStopIssue (logEvents [.stop] s)) h _).imp
    fun _ hu => ⟨hu.1, hu.2.of_onBackend⟩

theorem bodyStart_halts {tok : Event} (d : Addr7) (dir : Dir) {s : State} (h : waitCompletes (logEvents [tok] s) = false) :
    ∃ u, bodyStart tok d dir s = .halt u ∧ Halted (logEvents [tok] s) u :=
  (wait_bind_halted (s := onBackend twiStartIssue usiStartIssue (logEvents [tok] s)) h _).imp
    fun _ hu => ⟨hu.1, hu.2.of_onBackend⟩

theorem bodyWriteDevice_halts {b : Byte} {s : State} (h : waitCompletes (logEvents [.write b] s) = false) :
    ∃ u, bodyWriteDevice b s = .halt u ∧ Halted (logEvents [.write b] s) u :=
  (wait_bind_halted (s := onBackend (twiSendIssue b) (usiSendIssue b) (logEvents [.write b] s)) h _).imp
    fun _ hu => ⟨hu.1, hu.2.of_onBackend⟩

theorem bodyRead_halts (ack : Bool) {s : State} (h : waitCompletes s = false) :
    ∃ u, bodyRead ack s = .halt u ∧ Halted s u :=
  (wait_bind_halted (s := onBackend (twiReadIssue ack) usiReadIssue s) h _).imp
    fun _ hu => ⟨hu.1, hu.2.of_onBackend⟩

/-- A start whose second `Wait()` does not complete: its start condition is established, and the address byte is not
sent. -/
theorem bodyStart_halts_second {tok : Event} (d : Addr7) (dir : Dir) {s : State} {w v : Option Nat}
    {ws : List (Option Nat)} {cs : List Bool} (hc : s.env.startConds = true :: cs) (hq : s.env.waits = w :: v :: ws)
    (hw : inBound s.cfg.waitBound w = true) (hv : inBound s.cfg.waitBound v = false) :
    ∃ u, bodyStart tok d dir s = .halt u ∧ Halted (startEstablished (logEvents [tok] s)) u := by
  rw [bodyStart, wait_done (waitCompletes_of_queue (s := onBackend _ _ (logEvents _ s)) hq hw), Run.bind_done,
    if_pos (by simp [nextStartCond, hc]), addressPhase]
  refine (wait_bind_halted ?_ _).imp fun u hu => ⟨hu.1, hu.2.of_onBackend.of_startEstablished⟩
  simpa [waitCompletes, nextWait, hq] using hv

end Sys2Proof.Machine
end

section
/-! What every primitive keeps where R28 admits it, every operation keeps: the composites run each primitive in a phase that
admits it (R29, R86). From that, the invariant of the block's state and the legality of the bus log. -/

namespace Sys2Proof.Machine

/-- The starts, `stop` and the composites are not admitted in `Rx` (R28, R29). -/
theorem ne_rx_of_mem {p : Phase} (h : p ∈ [Phase.idle, .startFail, .addrNak, .tx, .rxEnd]) : p ≠ .rx := by
  rintro rfl
  simp at h

theorem begun_phase (i : Instr) (s : State) : (begun i s).phase = s.phase := by
  obtain ⟨inp, hb⟩ := begun_eq i s
  rw [hb]

theorem begun_inOp (i : Instr) (s : State) : (begun i s).inOp = true := by
  obtain ⟨inp, hb⟩ := begun_eq i s
  rw [hb]

/-- An operation in progress that stays in a `Wait()` has not returned. -/
theorem Stuck.not_returned {s u : State} (h : Stuck s u) (hs : s.inOp = true) : u.inOp = true ∨ u.hung = true := by
  obtain ⟨-, ⟨-, hi, -⟩ | ⟨-, -, hh, -⟩⟩ := h
  · exact .inl (hi.trans hs)
  · exact .inr hh

/-- What holds at the end of a body, its results written, or where it stays in a `Wait()`, holds of the operation's next
state. -/
theorem complete_keeps {I J H : State → Prop} (hend : ∀ t ok rd, I t → J (endOp { t with ok := ok, rd := rd })) {α : Type}
    {r : Run α} {write : α → State → State} (h : r.Post (fun _ t => I t) H)
    (hwr : ∀ a t, ∃ ok rd, write a t = { t with ok := ok, rd := rd }) : J (complete write r) ∨ H (complete write r) := by
  refine complete_cases (P := fun t => J t ∨ H t) h (fun a t ht => ?_) fun _ h => .inr h
  obtain ⟨ok, rd, hwr⟩ := hwr a t
  rw [hwr]
  exact .inl (hend t ok rd ht)

/-- A state predicate that every primitive keeps where it is admitted, that holds after `FOUND` as it does after the `stop`
before it, and that no store and no act of a callback touches; `H` holds where a primitive stays in a `Wait()`. -/
structure KeptWhereAdmitted (I H : State → Prop) : Prop where
  start : ∀ {tok d dir s}, tok = .start d dir ∨ tok = .rstart d dir → I s → s.phase ≠ .rx →
    (bodyStart tok d dir s).Post (fun _ t => I t) H
  stop : ∀ {s}, I s → s.phase ≠ .rx → (bodyStop s).Post (fun _ t => I t ∧ ∀ a, I (logEvents [.found a] t)) H
  write : ∀ {b s}, I s → s.phase = .tx → (bodyWriteDevice b s).Post (fun _ t => I t) H
  read : ∀ {ack s}, I s → s.phase = .rx → (bodyRead ack s).Post (fun _ t => I t) H
  store : ∀ {a v s}, I s → I (storeByte a v s)
  act : ∀ {act s}, I s → I (callbackAct act s)

section
variable {I H : State → Prop} (K : KeptWhereAdmitted I H) {s : State}
include K

/-- A start, with the phase it leaves by its result. -/
theorem KeptWhereAdmitted.startPhase {tok : Event} {d : Addr7} {dir : Dir} (htok : tok = .start d dir ∨ tok = .rstart d dir)
    (hI : I s) (hp : s.phase ≠ .rx) : (bodyStart tok d dir s).Post
      (fun a t => I t ∧ (a = true → t.phase = addressedPhase dir) ∧ (a = false → t.phase ≠ .rx)) H := by
  refine ((K.start htok hI hp).and (bodyStart_post tok d dir s)).imp (fun a t ⟨hI, he⟩ => ⟨hI, ?_⟩) fun _ h => h.1
  cases he with
  | acked _ hp _ => exact ⟨fun _ => hp, fun h => (nomatch h)⟩
  | naked _ hp _ => exact ⟨fun h => (nomatch h), fun _ => by simp [hp]⟩
  | failed _ hp => exact ⟨fun h => (nomatch h), fun _ => by simp [hp]⟩

theorem KeptWhereAdmitted.stopPhase (hI : I s) (hp : s.phase ≠ .rx) : (bodyStop s).Post
    (fun _ t => (I t ∧ ∀ a, I (logEvents [.found a] t)) ∧ t.phase = .idle) H :=
  ((K.stop hI hp).and (bodyStop_post s)).imp (fun _ _ h => ⟨h.1, h.2.2.1⟩) fun _ h => h.1

theorem KeptWhereAdmitted.writePhase (b : Byte) (hI : I s) (hp : s.phase = .tx) :
    (bodyWriteDevice b s).Post (fun _ t => I t ∧ t.phase = .tx) H :=
  ((K.write hI hp).and (bodyWriteDevice_post b s)).imp (fun _ _ h => ⟨h.1, h.2.2.1⟩) fun _ h => h.1

theorem KeptWhereAdmitted.readPhaseOf (ack : Bool) (hI : I s) (hp : s.phase = .rx) :
    (bodyRead ack s).Post (fun _ t => I t ∧ t.phase = if ack then .rx else .rxEnd) H :=
  ((K.read hI hp).and (bodyRead_post ack s)).imp (fun _ _ h => ⟨h.1, h.2.2.1⟩) fun _ h => h.1

theorem KeptWhereAdmitted.writeLoop (cont : Bool) (buf : BufRef) (k i : Nat) (hI : I s) (hp : s.phase = .tx) :
    (writeLoop cont buf k i s).Post (fun _ t => I t ∧ t.phase = .tx) H := by
  induction k generalizing i s with
  | zero => exact ⟨hI, hp⟩
  | succ k ih =>
    refine (K.writePhase _ hI hp).bind (fun _ h => h) fun a t ht => ?_
    split
    · exact (ih (i + 1) ht.1 ht.2).bind (fun _ h => h) fun _ _ hu => hu
    · exact ht

theorem KeptWhereAdmitted.readLoop (buf : BufRef) (k i : Nat) (hI : I s) (hp : s.phase = .rx) :
    (readLoop buf k i s).Post (fun _ t => I t ∧ t.phase = .rx) H := by
  induction k generalizing i s with
  | zero => exact ⟨hI, hp⟩
  | succ k ih => exact (K.readPhaseOf true hI hp).bind (fun _ h => h) fun v t ht => ih (i + 1) (K.store ht.1) ht.2

theorem KeptWhereAdmitted.readPhase (buf : BufRef) (n : Nat) (hI : I s) (hp : s.phase = .rx) :
    (readPhase buf n s).Post (fun _ t => I t ∧ t.phase = .rxEnd) H :=
  (K.readLoop buf (n - 1) 0 hI hp).bind (fun _ h => h) fun _ _ ht =>
    (K.readPhaseOf false ht.1 ht.2).bind (fun _ h => h) fun _ _ hu => ⟨K.store hu.1, hu.2⟩

theorem KeptWhereAdmitted.stopIf (ss : Bool) (hI : I s) (hp : s.phase ≠ .rx) : (stopIf ss s).Post (fun _ t => I t) H := by
  cases ss with
  | true => exact (K.stop hI hp).imp (fun _ _ h => h.1) fun _ h => h
  | false => exact hI

theorem KeptWhereAdmitted.stopThen (a : Bool) (hI : I s) (hp : s.phase ≠ .rx) : (stopThen a s).Post (fun _ t => I t) H :=
  (K.stop hI hp).bind (fun _ h => h) fun _ _ ht => ht.1

theorem KeptWhereAdmitted.bodyWriteBytes (d : Addr7) (n : Nat) (ss : Bool) (hI : I s) (hp : s.phase ≠ .rx) :
    (bodyWriteBytes d n ss s).Post (fun _ t => I t) H :=
  (K.startPhase (.inl rfl) hI hp).onSuccess (fun _ ht =>
    (K.writeLoop _ _ n 0 ht.1 (ht.2.1 rfl)).bind (fun _ h => h) fun _ _ hu =>
      (K.stopIf ss hu.1 (by simp [hu.2])).bind (fun _ h => h) fun _ _ hv => hv) fun _ ht => ht.1

theorem KeptWhereAdmitted.bodyReadBytes (d : Addr7) (n : Nat) (ss : Bool) (hI : I s) (hp : s.phase ≠ .rx) :
    (bodyReadBytes d n ss s).Post (fun _ t => I t) H :=
  (K.startPhase (.inl rfl) hI hp).onSuccess (fun _ ht =>
    (K.readPhase _ n ht.1 (ht.2.1 rfl)).bind (fun _ h => h) fun _ _ hu =>
      (K.stopIf ss hu.1 (by simp [hu.2])).bind (fun _ h => h) fun _ _ hv => hv) fun _ ht => ht.1

theorem KeptWhereAdmitted.bodyWriteRegister (d : Addr7) (r v : Byte) (hI : I s) (hp : s.phase ≠ .rx) :
    (bodyWriteRegister d r v s).Post (fun _ t => I t) H :=
  (K.startPhase (.inl rfl) hI hp).onSuccess (fun _ ht =>
    ((K.writePhase r ht.1 (ht.2.1 rfl)).onSuccess (fun _ hu => K.writePhase v hu.1 hu.2) fun _ hu => hu).bind
      (fun _ h => h) fun a _ hv => K.stopThen a hv.1 (by simp [hv.2])) fun _ ht => ht.1

theorem KeptWhereAdmitted.bodyWriteRegisterMulti (d : Addr7) (r : Byte) (n : Nat) (hI : I s) (hp : s.phase ≠ .rx) :
    (bodyWriteRegisterMulti d r n s).Post (fun _ t => I t) H :=
  (K.startPhase (.inl rfl) hI hp).onSuccess (fun _ ht =>
    ((K.writePhase r ht.1 (ht.2.1 rfl)).onSuccess (fun _ hu => K.writeLoop _ _ n 0 hu.1 hu.2) fun _ hu => hu).bind
      (fun _ h => h) fun a _ hv => K.stopThen a hv.1 (by simp [hv.2])) fun _ ht => ht.1

theorem KeptWhereAdmitted.selectRegister (d : Addr7) (r : Byte) (hI : I s) (hp : s.phase ≠ .rx) :
    (selectRegister d r s).Post (fun a t => I t ∧ (a = true → t.phase = .rx)) H := by
  refine Run.Post.onSuccess (D := fun a t => I t ∧ t.phase ≠ .rx) ?_ (fun t ht => ?_) fun t ht => ⟨ht.1, by simp⟩
  · exact (K.startPhase (.inl rfl) hI hp).onSuccess
      (fun _ ht => (K.writePhase r ht.1 (ht.2.1 rfl)).imp (fun _ _ hu => ⟨hu.1, by simp [hu.2]⟩) fun _ h => h)
      fun _ ht => ⟨ht.1, ht.2.2 rfl⟩
  · exact (K.startPhase (.inr rfl) ht.1 ht.2).imp (fun _ _ hu => ⟨hu.1, hu.2.1⟩) fun _ h => h

theorem KeptWhereAdmitted.bodyReadRegister (d : Addr7) (r : Byte) (hI : I s) (hp : s.phase ≠ .rx) :
    (bodyReadRegister d r s).Post (fun _ t => I t) H := by
  refine (K.selectRegister d r hI hp).bind (fun _ h => h) fun a t ht => ?_
  cases a with
  | true =>
    exact (K.readPhaseOf false ht.1 (ht.2 rfl)).bind (fun _ h => h) fun _ _ hu =>
      (K.stop hu.1 (by simp [hu.2])).bind (fun _ h => h) fun _ _ hv => hv.1
  | false => exact ht.1

theorem KeptWhereAdmitted.bodyReadRegisterMulti (d : Addr7) (r : Byte) (n : Nat) (hI : I s) (hp : s.phase ≠ .rx) :
    (bodyReadRegisterMulti d r n s).Post (fun _ t => I t) H :=
  (K.selectRegister d r hI hp).onSuccess (fun _ ht =>
    (K.readPhase _ n ht.1 (ht.2 rfl)).bind (fun _ h => h) fun _ _ hu => K.stopThen true hu.1 (by simp [hu.2])) fun _ ht => ht.1

theorem KeptWhereAdmitted.callbackActs (a : Addr7) (acts : Callback) (hI : I s) : I (callbackActs a acts s) := by
  induction acts generalizing s with
  | nil => exact hI
  | cons x rest ih =>
    refine ih ?_
    split
    · exact K.act hI
    · exact hI

theorem KeptWhereAdmitted.scanFound (a : Addr7) (hI : I s) (hp : s.phase = .rx) :
    (scanFound a s).Post (fun _ t => I t ∧ t.phase ≠ .rx) H :=
  (K.readPhaseOf false hI hp).bind (fun _ h => h) fun _ _ ht =>
    (K.stopPhase ht.1 (by simp [ht.2])).bind (fun _ h => h) fun _ u hu => by
      refine ⟨K.callbackActs a _ (hu.1.2 a), ?_⟩
      obtain ⟨m, r, hc⟩ := callbackActs_eq a (logEvents [.found a] u).cb (logEvents [.found a] u)
      rw [runCallback, hc]
      simp [hu.2]

theorem KeptWhereAdmitted.scanLoop (k a : Nat) (hI : I s) (hp : s.phase ≠ .rx) :
    (scanLoop k a s).Post (fun _ t => I t) H := by
  induction k generalizing a s with
  | zero => exact hI
  | succ k ih =>
    refine (K.startPhase (.inl rfl) hI hp).bind (fun _ h => h) fun ok t ht => ?_
    refine Run.Post.bind (D := fun _ u => I u ∧ u.phase ≠ .rx) ?_ (fun _ h => h) fun _ u hu => ih (a + 1) hu.1 hu.2
    cases ok with
    | true => exact K.scanFound _ ht.1 (ht.2.1 rfl)
    | false => exact ⟨ht.1, ht.2.2 rfl⟩

/-- Every operation, in a phase that admits it. -/
theorem KeptWhereAdmitted.ran {J : State → Prop} (hend : ∀ t ok rd, I t → J (endOp { t with ok := ok, rd := rd }))
    {i : Instr} (hI : I (begun i s)) (hp : s.phase ∈ admittingPhases i) : J (ran i s) ∨ H (ran i s) := by
  rw [← begun_phase i s] at hp
  cases i with
  | start d dir => exact complete_keeps hend (K.start (.inl rfl) hI (ne_rx_of_mem hp)) fun _ _ => ⟨_, _, rfl⟩
  | repeatStart d dir => exact complete_keeps hend (K.start (.inr rfl) hI (ne_rx_of_mem hp)) fun _ _ => ⟨_, _, rfl⟩
  | stop =>
    exact complete_keeps hend ((K.stop hI (ne_rx_of_mem hp)).imp (fun _ _ h => h.1) fun _ h => h) fun _ _ => ⟨_, _, rfl⟩
  | writeDevice b => exact complete_keeps hend (K.write hI (List.mem_singleton.1 hp)) fun _ _ => ⟨_, _, rfl⟩
  | readDeviceWithAck => exact complete_keeps hend (K.read hI (List.mem_singleton.1 hp)) fun _ _ => ⟨_, _, rfl⟩
  | readDeviceWithNak => exact complete_keeps hend (K.read hI (List.mem_singleton.1 hp)) fun _ _ => ⟨_, _, rfl⟩
  | writeBytes d n ss => exact complete_keeps hend (K.bodyWriteBytes d n ss hI (ne_rx_of_mem hp)) fun _ _ => ⟨_, _, rfl⟩
  | readBytes d n ss => exact complete_keeps hend (K.bodyReadBytes d n ss hI (ne_rx_of_mem hp)) fun _ _ => ⟨_, _, rfl⟩
  | writeRegister d r v => exact complete_keeps hend (K.bodyWriteRegister d r v hI (ne_rx_of_mem hp)) fun _ _ => ⟨_, _, rfl⟩
  | writeRegisterMulti d r n =>
    exact complete_keeps hend (K.bodyWriteRegisterMulti d r n hI (ne_rx_of_mem hp)) fun _ _ => ⟨_, _, rfl⟩
  | readRegister d r => exact complete_keeps hend (K.bodyReadRegister d r hI (ne_rx_of_mem hp)) fun _ _ => ⟨_, _, rfl⟩
  | readRegisterMulti d r n =>
    exact complete_keeps hend (K.bodyReadRegisterMulti d r n hI (ne_rx_of_mem hp)) fun _ _ => ⟨_, _, rfl⟩
  | scanBus => exact complete_keeps hend (K.scanLoop 126 1 hI (ne_rx_of_mem hp)) fun _ _ => ⟨_, _, rfl⟩

/-- The same, with the operation still in progress; so one that stays in a `Wait()` has not returned. -/
theorem KeptWhereAdmitted.inProgress :
    KeptWhereAdmitted (fun s => I s ∧ s.inOp = true) fun u => H u ∧ (u.inOp = true ∨ u.hung = true) where
  start {tok d dir s} htok hI hp := ((K.start htok hI.1 hp).and (closed_ends.bodyStart tok d dir s)).imp
    (fun _ _ h => ⟨h.1, h.2.2.1.trans hI.2⟩) fun _ h => ⟨h.1, h.2.not_returned hI.2⟩
  stop {s} hI hp := ((K.stop hI.1 hp).and (closed_ends.bodyStop s)).imp
    (fun _ _ h => have hi := h.2.2.1.trans hI.2; ⟨⟨h.1.1, hi⟩, fun a => ⟨h.1.2 a, hi⟩⟩)
    fun _ h => ⟨h.1, h.2.not_returned hI.2⟩
  write {b s} hI hp := ((K.write hI.1 hp).and (closed_ends.bodyWriteDevice b s)).imp
    (fun _ _ h => ⟨h.1, h.2.2.1.trans hI.2⟩) fun _ h => ⟨h.1, h.2.not_returned hI.2⟩
  read {ack s} hI hp := ((K.read hI.1 hp).and (closed_ends.bodyRead ack s)).imp
    (fun _ _ h => ⟨h.1, h.2.2.1.trans hI.2⟩) fun _ h => ⟨h.1, h.2.not_returned hI.2⟩
  store h := ⟨K.store h.1, h.2⟩
  act {act s} h := ⟨K.act h.1, by cases act <;> exact h.2⟩

/-- Every operation that answers a next state. -/
theorem KeptWhereAdmitted.exec {J : State → Prop} (hend : ∀ t ok rd, I t → J (endOp { t with ok := ok, rd := rd }))
    {i : Instr} {t : State} (hI : I (begun i s)) (h : exec i s = .next t) :
    J t ∨ H t ∧ (t.inOp = true ∨ t.hung = true) := by
  obtain ⟨-, -, hr, rfl⟩ := exec_ran h
  exact K.inProgress.ran (fun t ok rd h => hend t ok rd h.1) ⟨hI, begun_inOp i s⟩ (refusalOf_eq_none.1 hr).1

end

/-! ### The invariant -/

/-- Phase and ownership agree after every primitive that is admitted (R26). -/
theorem phaseOwned_kept : KeptWhereAdmitted PhaseOwned fun _ => True where
  start {tok d dir s} _ _ _ := by
    refine (bodyStart_post tok d dir s).imp (fun a t he => ?_) fun _ _ => trivial
    cases he with
    | acked _ hp ho => exact ⟨by cases dir <;> simp [hp, addressedPhase], fun _ => ho⟩
    | naked _ hp ho => exact ⟨by simp [hp], fun _ => ho⟩
    | failed _ hp => exact ⟨by simp [hp], by simp [hp, holdsBus]⟩
  stop {s} _ _ := (bodyStop_post s).imp
    (fun _ t ⟨_, hp, ho, _⟩ => have h : PhaseOwned t := ⟨fun _ => ho, by simp [hp, holdsBus]⟩; ⟨h, fun _ => h⟩)
    fun _ _ => trivial
  write {b s} hI hp := (bodyWriteDevice_post b s).imp
    (fun _ t ⟨_, hpt, ho⟩ => ⟨by simp [hpt], fun _ => ho.trans (hI.2 (by simp [hp, holdsBus]))⟩) fun _ _ => trivial
  read {ack s} hI hp := (bodyRead_post ack s).imp
    (fun _ t ⟨_, hpt, ho, _⟩ => ⟨by cases ack <;> simp [hpt], fun _ => ho.trans (hI.2 (by simp [hp, holdsBus]))⟩)
    fun _ _ => trivial
  store h := h
  act {act s} h := by cases act <;> exact h

/-- The caller's memory stays canonical. -/
def KeepsWf (s t : State) : Prop := Memory.wf s.mem → Memory.wf t.mem

theorem keepsWf_ofUpdates : OfUpdates KeepsWf where
  body := closed_of_sameMem (fun h => by simp [KeepsWf, h.1]) fun h k => k ∘ h
  store a v _ h := Memory.write_wf h a v
  act act s h := by
    cases act with
    | store a v => exact Memory.write_wf h a v
    | issue w => exact h
  begins _ _ := id
  ends _ _ _ := id
  moves _ _ := id
  faulted _ := id
  issue _ _ := id

/-- No update of a step sets a reserved field of a peripheral. -/
theorem keepsReserved_ofUpdates : OfUpdates KeepsReserved where
  body := closed_reserved
  store _ _ _ := id
  act act _ := by cases act <;> exact id
  begins _ _ := id
  ends _ _ _ := id
  moves _ _ := id
  faulted _ := id
  issue _ _ := id

/-- Phase and ownership agree after an operation that returned as they did before it. -/
theorem exec_phaseOwned {i : Instr} {s t : State} (hs : PhaseOwned s) (h : exec i s = .next t) (hi : t.inOp = false)
    (hh : t.hung = false) : PhaseOwned t := by
  have hb : PhaseOwned (begun i s) := by
    obtain ⟨inp, hb⟩ := begun_eq i s
    rw [hb]
    exact hs
  rcases phaseOwned_kept.exec (J := PhaseOwned) (fun _ _ _ h => h) hb h with h | ⟨-, h | h⟩
  · exact h
  · simp [hi] at h
  · simp [hh] at h

/-- A move of the caller touches nothing of the invariant but the caller's memory. -/
theorem performMove_inv {m : CallerMove} {s : State} (h : Inv s) (hw : Memory.wf (performMove m (dropMove s)).mem) :
    Inv (performMove m (dropMove s)) := by
  obtain ⟨f, mem, he, -⟩ := performMove_eq m (dropMove s)
  rw [he] at hw ⊢
  exact ⟨hw, h.phase, h.hungBound, h.heldNoBound, h.reserved, h.index⟩

/-- An operation of the caller's list keeps the invariant: memory and the reserved fields by every update, phase and
ownership by every admitted primitive, and the rest by the way the operation ends. -/
theorem exec_inv {i : Instr} {s t : State} (h : Inv s) (hr : Ready s) (hlt : s.opIndex < s.ops.length)
    (ht : exec i s = .next t) : Inv t := by
  have hf := exec_framed ht
  have he := exec_ended ht
  refine ⟨keepsWf_ofUpdates.exec ht h.memory, exec_phaseOwned (h.phase hr.1 hr.2) ht, fun hh => ?_, fun hi => ?_,
    keepsReserved_ofUpdates.exec ht h.reserved, ?_⟩
  · rw [hf.cfg]
    cases he with
    | returned _ hh' _ | blocked _ _ hh' _ _ _ => simp [hh'] at hh
    | hung hb hi _ _ _ _ _ => exact ⟨hb, hi⟩
  · rw [hf.cfg]
    cases he with
    | returned hi' _ _ | hung _ hi' _ _ _ _ _ => simp [hi'] at hi
    | blocked hb _ _ _ _ _ => exact hb
  · rw [hf.ops]
    cases he with
    | returned _ _ hx => omega
    | blocked _ _ _ hx _ _ | hung _ _ _ _ hx _ _ => omega

/-- Settles O48: a move of the caller or an operation of its list. -/
theorem stepKeepsInvariant : Obligations.StepKeepsInvariant := by
  intro s t hs h
  have hw : Memory.wf t.mem := keepsWf_ofUpdates.step h hs.memory
  obtain ⟨hhung, hop, ⟨m, -, rfl⟩ | ⟨c, i, -, hc, -, he⟩⟩ := step_next h
  · exact performMove_inv hs hw
  · have hlt : s.opIndex < s.ops.length := (List.getElem?_eq_some_iff.1 hc).1
    exact exec_inv (s := issue c s) ⟨hs.memory, hs.phase, hs.hungBound, hs.heldNoBound, hs.reserved, hs.index⟩
      ⟨hop, hhung⟩ hlt he

/-- Settles O49: each part by the values of reset. -/
theorem resetMeetsInvariant : Obligations.ResetMeetsInvariant where
  memory := Memory.reset_wf
  phase _ _ := ⟨fun _ => rfl, fun h => by simp [State.reset, holdsBus] at h⟩
  hungBound h := by simp [State.reset] at h
  heldNoBound h := by simp [State.reset] at h
  reserved := by decide
  index := Nat.le_refl 0

/-! ### Legal logs -/

theorem logRun_append (p : LogPoint) (es fs : List Event) : logRun p (es ++ fs) = (logRun p es).bind fun q => logRun q fs := by
  induction es generalizing p with
  | nil => rfl
  | cons e es ih =>
    simp only [List.cons_append, logRun]
    cases logStep p e with
    | none => rfl
    | some q => exact ih q

/-- Reading the log from phase `Idle` comes to the point `p`. -/
def LogAt (s : State) (p : LogPoint) : Prop := logRun (.between .idle) s.log = some p

/-- The log is legal and ends between primitives, at the state's phase. -/
def LogSettled (s : State) : Prop := ∃ p, LogAt s p ∧ p.phase = some s.phase

/-- The log is legal, ended anywhere. -/
def LogReadable (s : State) : Prop := ∃ p, LogAt s p

theorem LogAt.append {s t : State} {p q : LogPoint} {es : List Event} (h : LogAt s p) (hl : t.log = s.log ++ es)
    (hq : logRun p es = some q) : LogAt t q := by
  rw [LogAt, hl, logRun_append, h]
  exact hq

/-- After a point that allows it, `HANG` or nothing. -/
theorem Halted.logReadable {s u : State} {p q : LogPoint} (hu : Halted s u) (h : LogAt s p)
    (hq : logStep p .hang = some q) : LogReadable u := by
  cases hb : s.cfg.waitBound with
  | none => exact ⟨p, h.append (by rw [hu.log, hb]) rfl⟩
  | some n => exact ⟨q, h.append (by rw [hu.log, hb]) (by simp [hangEvents, logRun, hq])⟩

/-- At a settled log the point is between primitives, or right after a `STOP`. -/
theorem settled_cases {p : LogPoint} {x : Phase} (h : p.phase = some x) : p = .between x ∨ p = .stopped ∧ x = .idle := by
  cases p <;> simp_all [LogPoint.phase]

theorem logStep_start {p : LogPoint} {x : Phase} {tok : Event} {d : Addr7} {dir : Dir} (h : p.phase = some x) (hx : x ≠ .rx)
    (htok : tok = .start d dir ∨ tok = .rstart d dir) : logStep p tok = some (.starting dir) := by
  rcases settled_cases h with rfl | ⟨rfl, -⟩ <;> rcases htok with rfl | rfl <;> simp [logStep, hx]

theorem logStep_stop {p : LogPoint} {x : Phase} (h : p.phase = some x) (hx : x ≠ .rx) : logStep p .stop = some .stopped := by
  rcases settled_cases h with rfl | ⟨rfl, -⟩ <;> simp [logStep, hx]

/-- In `Tx` and in `Rx` the point is between primitives: a `STOP` leaves `Idle`. -/
theorem settled_between {p : LogPoint} {x : Phase} (h : p.phase = some x) (hx : x ≠ .idle) : p = .between x := by
  rcases settled_cases h with h | ⟨-, h⟩
  · exact h
  · exact absurd h hx

theorem logSettled_start {tok : Event} {d : Addr7} {dir : Dir} {s : State} (htok : tok = .start d dir ∨ tok = .rstart d dir)
    (hs : LogSettled s) (hx : s.phase ≠ .rx) : (bodyStart tok d dir s).Post (fun _ t => LogSettled t) LogReadable := by
  obtain ⟨p, hp, hph⟩ := hs
  have htok := logStep_start hph hx htok
  have hstarting : LogAt (logEvents [tok] s) (.starting dir) := hp.append rfl (by simp [logRun, htok])
  refine (bodyStart_post tok d dir s).imp (fun a t he => ?_) fun u hu => ?_
  · cases he with
    | acked hl hpt _ =>
      refine ⟨.between (addressedPhase dir), hstarting.append (es := [.addrAck]) (by simp [hl]) ?_, by rw [hpt]; rfl⟩
      cases dir <;> rfl
    | naked hl hpt _ =>
      exact ⟨.between .addrNak, hstarting.append (es := [.addrNak]) (by simp [hl]) rfl, by rw [hpt]; rfl⟩
    | failed hl hpt =>
      exact ⟨.between .startFail, hstarting.append (es := [.startFail]) (by simp [hl]) rfl, by rw [hpt]; rfl⟩
  · rcases hu with hu | hu
    · exact hu.logReadable hstarting rfl
    · exact hu.logReadable (p := .starting dir) hstarting rfl

theorem logSettled_stop {s : State} (hs : LogSettled s) (hx : s.phase ≠ .rx) :
    (bodyStop s).Post (fun _ t => LogSettled t ∧ ∀ a, LogSettled (logEvents [.found a] t)) LogReadable := by
  obtain ⟨p, hp, hph⟩ := hs
  have hstop := logStep_stop hph hx
  refine (bodyStop_post s).imp (fun _ t ⟨hl, hpt, _, _⟩ => ?_) fun u hu => ?_
  · have ht : LogAt t .stopped := hp.append hl (by simp [logRun, hstop])
    exact ⟨⟨_, ht, by rw [hpt]; rfl⟩, fun a => ⟨.between .idle, ht.append rfl rfl, by rw [logEvents_phase, hpt]; rfl⟩⟩
  · exact hu.logReadable (p := .stopped) (hp.append rfl (by simp [logRun, hstop])) rfl

theorem logSettled_write {b : Byte} {s : State} (hs : LogSettled s) (hx : s.phase = .tx) :
    (bodyWriteDevice b s).Post (fun _ t => LogSettled t) LogReadable := by
  obtain ⟨p, hp, hph⟩ := hs
  rw [settled_between hph (by simp [hx]), hx] at hp
  refine (bodyWriteDevice_post b s).imp (fun a t ⟨hl, hpt, _⟩ => ?_) fun u hu => ?_
  · exact ⟨.between .tx, hp.append hl (by cases a <;> rfl), by rw [hpt]; rfl⟩
  · exact hu.logReadable (p := .writing) (hp.append rfl rfl) rfl

theorem logSettled_read {ack : Bool} {s : State} (hs : LogSettled s) (hx : s.phase = .rx) :
    (bodyRead ack s).Post (fun _ t => LogSettled t) LogReadable := by
  obtain ⟨p, hp, hph⟩ := hs
  rw [settled_between hph (by simp [hx]), hx] at hp
  refine (bodyRead_post ack s).imp (fun v t ⟨hl, hpt, _, _⟩ => ?_) fun u hu => hu.logReadable hp rfl
  cases ack with
  | true => exact ⟨.between .rx, hp.append hl rfl, by rw [hpt]; rfl⟩
  | false => exact ⟨.between .rxEnd, hp.append hl rfl, by rw [hpt]; rfl⟩

/-- Every primitive, where the phase admits it, logs what the automaton allows at that phase. -/
theorem logSettled_kept : KeptWhereAdmitted LogSettled LogReadable where
  start := logSettled_start
  stop := logSettled_stop
  write := logSettled_write
  read := logSettled_read
  store h := h
  act {act _} h := by cases act <;> exact h

theorem exec_legalLog {i : Instr} {s t : State} (hs : LogSettled s) (h : exec i s = .next t) : LegalLog t := by
  have hb : LogSettled (begun i s) := by
    obtain ⟨inp, hb⟩ := begun_eq i s
    rw [hb]
    exact hs
  rcases logSettled_kept.exec (J := LogSettled) (fun _ _ _ h => h) hb h with ⟨p, hp, hph⟩ | ⟨⟨p, hp⟩, hn⟩
  · exact ⟨p, hp, fun _ _ => hph⟩
  · refine ⟨p, hp, fun hi hh => ?_⟩
    simp [hi, hh] at hn

/-- Settles O50: a move of the caller touches neither log nor phase; an operation begins at a settled log, and each of its
primitives is admitted. -/
theorem stepKeepsLegalLog : Obligations.StepKeepsLegalLog := by
  intro s t ⟨p, hp, hph⟩ h
  obtain ⟨hhung, hop, ⟨m, -, rfl⟩ | ⟨c, i, -, -, -, he⟩⟩ := step_next h
  · obtain ⟨f, mem, he, -⟩ := performMove_eq m (dropMove s)
    rw [he]
    exact ⟨p, hp, hph⟩
  · exact exec_legalLog (s := issue c s) ⟨p, hp, hph hop hhung⟩ he

end Sys2Proof.Machine
end

section
/-! Frames: what an operation leaves in the input and result registers, in the caller's memory and in the marks. -/

namespace Sys2Proof.Machine

/-! ### The result registers -/

theorem begun_ok (i : Instr) (s : State) : (begun i s).ok = s.ok := by
  obtain ⟨inp, hb⟩ := begun_eq i s
  rw [hb]

theorem begun_rd (i : Instr) (s : State) : (begun i s).rd = s.rd := by
  obtain ⟨inp, hb⟩ := begun_eq i s
  rw [hb]

theorem exec_ok_kept {i : Instr} {s t : State} (hi : writesOk i = false) (h : exec i s = .next t) : t.ok = s.ok := by
  obtain ⟨-, -, ⟨u, ⟨hk, -, -⟩, hr⟩ | ⟨hk, -⟩⟩ := exec_going h
  · exact ((hr.okKept hi).trans hk.ok).trans (begun_ok i s)
  · exact hk.ok.trans (begun_ok i s)

theorem exec_rd_kept {i : Instr} {s t : State} (hi : writesRd i = false) (h : exec i s = .next t) : t.rd = s.rd := by
  obtain ⟨-, -, ⟨u, ⟨hk, -, -⟩, hr⟩ | ⟨hk, -⟩⟩ := exec_going h
  · exact ((hr.rdKept hi).trans hk.rd).trans (begun_rd i s)
  · exact hk.rd.trans (begun_rd i s)

theorem exec_ok_written {i : Instr} {s t : State} (hi : writesOk i = true) (h : exec i s = .next t) (ht : Returned t) :
    t.ok ≠ none := by
  obtain ⟨-, -, ⟨u, -, hr⟩ | hk⟩ := exec_going h
  · exact hr.okWritten hi
  · rcases hk.not_returned (begun_inOp i s) with hn | hn
    · simp [ht.1] at hn
    · simp [ht.2] at hn

/-- Settles O46. -/
theorem whoWritesTheResults : Obligations.WhoWritesTheResults :=
  fun _ _ _ h => ⟨fun hi => exec_ok_written hi h, fun hi => exec_ok_kept hi h, fun hi => exec_rd_kept hi h⟩

/-! ### Operations that store nothing -/

/-- An operation that neither fills a buffer nor runs a callback changes neither memory nor the mark `refused`. -/
theorem exec_sameMem {i : Instr} {s t : State} (hb : ∀ d n ss, i ≠ .readBytes d n ss)
    (hm : ∀ d r n, i ≠ .readRegisterMulti d r n) (hs : i ≠ .scanBus) (h : exec i s = .next t) : SameMem s t := by
  obtain ⟨inp, he⟩ := begun_eq i s
  obtain ⟨-, -, ⟨u, hu, hr⟩ | hu⟩ := exec_ends closed_mem
    (by rintro (⟨d, ss, n, rfl⟩ | ⟨d, r, n, rfl⟩) <;> simp_all) (fun e => absurd e hs) h
  · rw [he] at hu
    obtain ⟨ok, rd, rfl⟩ := hr.rest
    exact hu
  · rwa [he] at hu

theorem Framed.callerKept {i : Instr} {s t : State} (hf : Framed i s t) (hr : t.refused = s.refused) : CallerKept s t :=
  ⟨hf.cfg, hf.ops, hf.moves, hf.buf, hf.cb, hr, hf.faulted⟩

/-- The frame of an operation that stores nothing. -/
theorem exec_storesNothing {i : Instr} {s t : State} (hb : ∀ d n ss, i ≠ .readBytes d n ss)
    (hm : ∀ d r n, i ≠ .readRegisterMulti d r n) (hs : i ≠ .scanBus) (h : exec i s = .next t) :
    CallerKept s t ∧ ∀ a, t.mem.read a = s.mem.read a := by
  obtain ⟨hmem, hr⟩ := exec_sameMem hb hm hs h
  exact ⟨(exec_framed h).callerKept hr, fun a => by rw [hmem]⟩

theorem exec_writeDevice_phase {b : Byte} {s t : State} (h : exec (.writeDevice b) s = .next t) :
    t.phase = s.phase ∧ t.owned = s.owned := by
  obtain ⟨-, -, hr, rfl⟩ := exec_ran h
  have hp : s.phase = .tx := List.mem_singleton.1 (refusalOf_eq_none.1 hr).1
  exact complete_cases (P := fun t => t.phase = s.phase ∧ t.owned = s.owned) (bodyWriteDevice_post b _)
    (fun _ _ hu => ⟨hu.2.1.trans hp.symm, hu.2.2⟩) fun _ hu => ⟨hu.phase, hu.owned⟩

/-- Settles O41: the input registers are those latched, and nothing is stored. -/
theorem frameOfStartAndWriteDevice : Obligations.FrameOfStartAndWriteDevice := by
  refine fun i s t h => ⟨?_, ?_⟩
  · rintro d dir (rfl | rfl) <;>
      exact ⟨(exec_framed h).inp, exec_rd_kept rfl h, exec_storesNothing (by simp) (by simp) (by simp) h⟩
  · rintro b rfl
    obtain ⟨hp, ho⟩ := exec_writeDevice_phase h
    exact ⟨(exec_framed h).inp, exec_rd_kept rfl h, hp, ho, exec_storesNothing (by simp) (by simp) (by simp) h⟩

theorem exec_stop_cause {s t : State} (h : exec .stop s = .next t) : t.cause = s.cause := by
  obtain ⟨-, -, -, rfl⟩ := exec_ran h
  exact complete_cases (P := fun t => t.cause = s.cause) (bodyStop_post _) (fun _ _ hu => hu.2.2.2) fun _ hu => hu.cause

theorem exec_read_owned {i : Instr} {s t : State} (hi : i = .readDeviceWithAck ∨ i = .readDeviceWithNak)
    (h : exec i s = .next t) : t.owned = s.owned ∧ t.cause = s.cause := by
  obtain ⟨-, -, -, rfl⟩ := exec_ran h
  rcases hi with rfl | rfl <;>
    exact complete_cases (P := fun t => t.owned = s.owned ∧ t.cause = s.cause) (bodyRead_post _ _)
      (fun _ _ hu => ⟨hu.2.2.1, hu.2.2.2⟩) fun _ hu => ⟨hu.owned, hu.cause⟩

/-- Settles O42. -/
theorem frameOfStopAndReads : Obligations.FrameOfStopAndReads := by
  refine fun i s t h => ⟨?_, fun hi => (exec_read_owned hi h).1, fun hi => ?_⟩
  · rintro rfl
    exact exec_rd_kept rfl h
  · have hc : t.cause = s.cause := by
      rcases hi with rfl | hi
      · exact exec_stop_cause h
      · exact (exec_read_owned hi h).2
    rcases hi with rfl | rfl | rfl <;>
      exact ⟨(exec_framed h).inp, exec_ok_kept rfl h, hc, exec_storesNothing (by simp) (by simp) (by simp) h⟩

/-- Settles O43. -/
theorem frameOfCompositesThatStoreNothing : Obligations.FrameOfCompositesThatStoreNothing := by
  refine fun i s t h => ⟨?_, ?_, ?_, ?_, ?_⟩
  · rintro d n ss rfl
    exact ⟨(exec_framed h).inp, exec_rd_kept rfl h⟩
  · rintro d r v rfl
    exact ⟨(exec_framed h).inp, exec_rd_kept rfl h⟩
  · rintro d r n rfl
    exact ⟨(exec_framed h).inp, exec_rd_kept rfl h⟩
  · rintro d r rfl
    exact (exec_framed h).inp
  · rintro (⟨d, n, ss, rfl⟩ | ⟨d, r, v, rfl⟩ | ⟨d, r, n, rfl⟩ | ⟨d, r, rfl⟩) <;>
      exact exec_storesNothing (by simp) (by simp) (by simp) h

/-! ### Operations that store -/

/-- Nothing is stored but in the first `n` bytes of a buffer, and the mark `refused` is as it was. -/
def StoresWithin (buf : BufRef) (n : Nat) (s t : State) : Prop :=
  (∀ a, (∀ j, j < n → a ≠ buf.addr j) → t.mem.read a = s.mem.read a) ∧ t.refused = s.refused

theorem StoresWithin.of_sameMem {buf : BufRef} {n : Nat} {s t : State} (h : SameMem s t) : StoresWithin buf n s t :=
  ⟨fun _ _ => by rw [h.1], h.2⟩

theorem StoresWithin.trans {buf : BufRef} {n : Nat} {s t u : State} (h : StoresWithin buf n s t)
    (k : StoresWithin buf n t u) : StoresWithin buf n s u :=
  ⟨fun a ha => (k.1 a ha).trans (h.1 a ha), k.2.trans h.2⟩

theorem closed_storesWithin (buf : BufRef) (n : Nat) : Closed (StoresWithin buf n) (StoresWithin buf n) :=
  closed_of_sameMem .of_sameMem .trans

theorem storesWithin_storeByte {buf : BufRef} {n j : Nat} (hj : j < n) (v : Byte) (s : State) :
    StoresWithin buf n s (storeByte (buf.addr j) v s) :=
  ⟨fun _ ha => Memory.read_write_other s.mem v (ha j hj), rfl⟩

/-- A buffer read stores in the bytes of its buffer only (R46). -/
theorem exec_storesWithin {i : Instr} {s t : State} (hs : i ≠ .scanBus) (h : exec i s = .next t) :
    StoresWithin s.buf (bufferNeed i) s t := by
  obtain ⟨inp, he⟩ := begun_eq i s
  obtain ⟨-, -, ⟨u, hu, hr⟩ | hu⟩ := exec_ends (closed_storesWithin s.buf (bufferNeed i))
    (fun _ j hj v u => storesWithin_storeByte hj v u) (fun e => absurd e hs) h
  · rw [he] at hu
    obtain ⟨ok, rd, rfl⟩ := hr.rest
    exact hu
  · rwa [he] at hu

/-- Settles O44. -/
theorem frameOfBufferReads : Obligations.FrameOfBufferReads := by
  intro i n s t h hi
  have hf := exec_framed h
  obtain ⟨d, ss, rfl⟩ | ⟨d, r, rfl⟩ := hi
  · obtain ⟨hm, hr⟩ := exec_storesWithin (by simp) h
    refine ⟨?_, by simp, exec_rd_kept rfl h, hf.callerKept hr, hm⟩
    rintro d ss ⟨⟩
    exact hf.inp
  · obtain ⟨hm, hr⟩ := exec_storesWithin (by simp) h
    refine ⟨by simp, ?_, exec_rd_kept rfl h, hf.callerKept hr, hm⟩
    rintro d r ⟨⟩
    exact hf.inp

/-- A scan that answers a next state has run the callback for the addresses it logged `FOUND` and for no other. -/
theorem exec_scanBus_callbackRan {s t : State} (h : exec .scanBus s = .next t) : CallbackRan s t := by
  obtain ⟨-, -, -, rfl⟩ := exec_ran h
  have hran : (bodyScanBus (begun .scanBus s)).Within CallbackRan CallbackRan (begun .scanBus s) :=
    callbackRan_scanLoop 126 1 _
  exact complete_cases (P := CallbackRan s) hran (fun _ _ hu => ⟨hu.cb, hu.acts⟩) fun _ hu => ⟨hu.cb, hu.acts⟩

/-- Settles O45. -/
theorem frameOfScanBus : Obligations.FrameOfScanBus := by
  intro s t h
  have hf := exec_framed h
  obtain ⟨-, es, hl, hm, hw, hr⟩ := exec_scanBus_callbackRan h
  exact ⟨⟨es, hl, hm, fun hwf => (hw hwf).2, hr⟩, hf.inp, exec_ok_kept rfl h, exec_rd_kept rfl h, hf.cfg, hf.ops, hf.moves,
    hf.buf, hf.cb, hf.faulted⟩

/-- Settles O20: the callback ran for every address logged `FOUND`. -/
theorem callbackOperationIsRefused : Obligations.CallbackOperationIsRefused := by
  intro s t a w es h hl ha hw
  obtain ⟨-, fs, hl', -, -, hr⟩ := exec_scanBus_callbackRan h
  obtain rfl : es = fs := List.append_cancel_left (hl.symm.trans hl')
  exact hr.2 (.inr ⟨a, w, ha, hw⟩)

end Sys2Proof.Machine
end

section
/-! The primitives as operations: what each answers for given answers of the environment, and what one that stays in a
`Wait()` leaves. -/

namespace Sys2Proof.Machine

/-! ### The starts -/

/-- The operation is a start or a repeated start that logs `tok`. -/
abbrev IsStart (i : Instr) (tok : Event) (d : Addr7) (dir : Dir) : Prop :=
  (i = .start d dir ∧ tok = .start d dir) ∨ (i = .repeatStart d dir ∧ tok = .rstart d dir)

/-- Either start runs the same body from the same state. -/
theorem exec_isStart {i : Instr} {tok : Event} {d : Addr7} {dir : Dir} (hi : IsStart i tok d dir) {s : State} (h : Ready s)
    (hp : s.phase ≠ .rx) :
    exec i s = .next (complete writeOk (bodyStart tok d dir (begun (.start d dir) s))) := by
  rcases hi with ⟨rfl, rfl⟩ | ⟨rfl, rfl⟩ <;>
    exact exec_next h.2 h.1 (refusalOf_eq_none.2 ⟨mem_of_ne_rx hp, rfl, Nat.zero_le _⟩)

/-- Settles O21: the body with its start condition established, its result written. -/
theorem startSendsAddress : Obligations.StartSendsAddress := by
  intro i tok d dir a s cs as hi h hp hc ha hw
  obtain ⟨u, hu, hl, hx, hph, ho, hca, -⟩ := bodyStart_established (s := begun (.start d dir) s) tok d dir hc ha hw
  have hk : Kept (begun (.start d dir) s) u := ((closed_ends.bodyStart tok d dir _).of_done hu).1
  refine ⟨endOp (writeOk a u), by rw [exec_isStart hi h hp, hu]; rfl, hl, hx, hph, ho, hca, rfl, ?_, ?_, rfl, ?_⟩
  · simp [hk.inp, begun]
  · simp [hk.inp, begun]
  · simp [hk.opIndex, begun]

/-- Settles O22: the body with its start condition not established, its result written. -/
theorem startConditionFails : Obligations.StartConditionFails := by
  intro i tok d dir s cs os o hi h hp hc ho hw
  obtain ⟨u, hu, hl, hx, hph, hca, how⟩ := bodyStart_failed (s := begun (.start d dir) s) tok d dir hc hw
  have hk : Kept (begun (.start d dir) s) u := ((closed_ends.bodyStart tok d dir _).of_done hu).1
  refine ⟨endOp (writeOk false u), by rw [exec_isStart hi h hp, hu]; rfl, hl, hx, hph, how o os ho, hca, rfl, rfl, ?_⟩
  simp [hk.opIndex, begun]

/-! ### Data bytes -/

theorem exec_writeDevice_next (b : Byte) {s : State} (h : Ready s) (hp : s.phase = .tx) :
    exec (.writeDevice b) s = .next (complete writeOk (bodyWriteDevice b (begun (.writeDevice b) s))) :=
  exec_next h.2 h.1 (refusalOf_eq_none.2 ⟨by simp [hp, admittingPhases], rfl, Nat.zero_le _⟩)

/-- Settles O24: the body with its answer queued, its result written. -/
theorem writeDeviceSendsByte : Obligations.WriteDeviceSendsByte := by
  intro b a s as h hp ha hw
  obtain ⟨u, hu, hl, hx, hph, ho, hca, -⟩ := bodyWriteDevice_done (s := begun (.writeDevice b) s) b ha hw
  have hk : Kept (begun (.writeDevice b) s) u := ((closed_ends.bodyWriteDevice b _).of_done hu).1
  rw [byteM_eq, ackBit_eq] at hx
  refine ⟨endOp (writeOk a u), by rw [exec_writeDevice_next b h hp, hu]; rfl, hl, hx, hph, ho, hca, rfl, hk.rd, ?_, rfl, ?_⟩
  · simp [hk.inp, begun]
  · simp [hk.opIndex, begun]

/-- Either read primitive runs its body from the same state. -/
theorem exec_readDevice_next {i : Instr} {ack : Bool}
    (hi : (i = .readDeviceWithAck ∧ ack = true) ∨ (i = .readDeviceWithNak ∧ ack = false)) {s : State} (h : Ready s)
    (hp : s.phase = .rx) : exec i s = .next (complete writeRd (bodyRead ack (beginOp s))) := by
  rcases hi with ⟨rfl, rfl⟩ | ⟨rfl, rfl⟩ <;>
    exact exec_next h.2 h.1 (refusalOf_eq_none.2 ⟨by simp [hp, admittingPhases], rfl, Nat.zero_le _⟩)

/-- Settles O25: the body with its byte queued, its result written. -/
theorem readDeviceTakesByte : Obligations.ReadDeviceTakesByte := by
  intro i ack v s vs hi h hp hv hw
  obtain ⟨u, hu, hl, hx, hph, ho, hca, -⟩ := bodyRead_done (s := beginOp s) ack hv hw
  have hk : Kept (beginOp s) u := ((closed_ends.bodyRead ack _).of_done hu).1
  rw [byteT_eq, ackBit_eq] at hx
  refine ⟨endOp (writeRd v u), by rw [exec_readDevice_next hi h hp, hu]; rfl, hl, hx, hph, ho, rfl, hk.ok, hca, rfl, ?_⟩
  simp [hk.opIndex]

/-! ### `stop` -/

theorem exec_stop_next {s : State} (h : Ready s) (hp : s.phase ≠ .rx) :
    exec .stop s = .next (complete writeNothing (bodyStop (beginOp s))) :=
  exec_next h.2 h.1 (refusalOf_eq_none.2 ⟨mem_of_ne_rx hp, rfl, Nat.zero_le _⟩)

/-- A `stop` whose `Wait()` completes releases the bus. -/
theorem exec_stop_releases {s : State} (h : Ready s) (hp : s.phase ≠ .rx)
    (hw : waitCompletes { s with log := s.log ++ [Event.stop] } = true) :
    ∃ t, exec .stop s = .next t ∧ t.log = s.log ++ [Event.stop] ∧ t.wire = s.wire ++ [WireSym.P] ∧ t.phase = .idle ∧
      t.owned = false ∧ t.ok = s.ok ∧ t.rd = s.rd ∧ t.cause = s.cause ∧ Returned t ∧ t.opIndex = s.opIndex + 1 := by
  obtain ⟨u, hu, hx⟩ := bodyStop_returns (s := beginOp s) hw
  obtain ⟨hl, hph, ho, hca⟩ := (bodyStop_post _).of_done hu
  obtain ⟨hk, -, hh⟩ := (closed_ends.bodyStop _).of_done hu
  exact ⟨endOp u, by rw [exec_stop_next h hp, hu]; rfl, hl, hx, hph, ho, hk.ok, hk.rd, hca, ⟨rfl, hh.trans h.2⟩,
    congrArg (· + 1) hk.opIndex⟩

/-- A `stop` whose `Wait()` does not complete stays in it, with `STOP` logged. -/
theorem exec_stop_stays {s : State} (h : Ready s) (hp : s.phase ≠ .rx)
    (hw : waitCompletes { s with log := s.log ++ [Event.stop] } = false) :
    ∃ t, exec .stop s = .next t ∧ Kept s t ∧ Halted (logEvents [.stop] (beginOp s)) t := by
  obtain ⟨u, hu, hs⟩ := bodyStop_halts (s := beginOp s) hw
  obtain ⟨hk, -⟩ := (closed_ends.bodyStop _).of_halt hu
  exact ⟨u, by rw [exec_stop_next h hp, hu]; rfl,
    ⟨hk.cfg, hk.ops, hk.moves, hk.inp, hk.buf, hk.cb, hk.ok, hk.rd, hk.opIndex, hk.faulted⟩, hs⟩

/-- Whether a `stop` returns, hangs or is blocked, by whether its `Wait()` completes and by the bound. -/
theorem exec_stop_ends {s : State} (h : Ready s) (hp : s.phase ≠ .rx) :
    ∃ t, exec .stop s = .next t ∧ (Returned t ↔ waitCompletes { s with log := s.log ++ [Event.stop] } = true) ∧
      (t.hung = true ↔ waitCompletes { s with log := s.log ++ [Event.stop] } = false ∧ s.cfg.waitBound ≠ none) ∧
      (t.inOp = true ↔ waitCompletes { s with log := s.log ++ [Event.stop] } = false ∧ s.cfg.waitBound = none) := by
  cases hw : waitCompletes { s with log := s.log ++ [Event.stop] } with
  | true =>
    obtain ⟨t, ht, -, -, -, -, -, -, -, hr, -⟩ := exec_stop_releases h hp hw
    exact ⟨t, ht, iff_of_true hr rfl, by simp [hr.2], by simp [hr.1]⟩
  | false =>
    obtain ⟨t, ht, -, hs⟩ := exec_stop_stays h hp hw
    have hh : t.hung = s.cfg.waitBound.isSome := by simpa [h.2] using hs.hung
    have hi : t.inOp = s.cfg.waitBound.isNone := by simpa using hs.inOp
    refine ⟨t, ht, ?_, ?_, ?_⟩ <;> cases hb : s.cfg.waitBound <;> simp [Returned, hh, hi, hb]

/-- Settles O23: by whether its one `Wait()` completes. -/
theorem stopReleasesTheBus : Obligations.StopReleasesTheBus := by
  refine ⟨fun s => exec_reentrant .stop, fun s h => ⟨fun hp => ?_, fun hp hw => ?_, fun hp hw => ?_,
    fun hp n k ks hb hq => ?_, fun hp n ks hb hq => ?_, fun hp k ks hb hq => ?_⟩⟩
  · exact exec_refused h.2 h.1 (refusalOf_eq_outOfPhase.2 (by simp [hp, admittingPhases]))
  · obtain ⟨t, ht, hl, hx, hph, ho, hok, hrd, hca, hr, hop⟩ := exec_stop_releases h hp hw
    exact ⟨t, ht, hl, hx, hph, ho, hok, hrd, hca, hr.1, hop⟩
  · obtain ⟨t, ht, hk, hs⟩ := exec_stop_stays h hp hw
    refine ⟨t, ht, hs.phase, hs.owned, hk.ok, hk.rd, hk.opIndex, hs.wire, fun hb => ?_, fun hb => ?_⟩
    · exact ⟨by simpa [hb, hangEvents] using hs.log, by simpa [hb] using hs.inOp, by simpa [hb, h.2] using hs.hung⟩
    · obtain ⟨n, hb⟩ := Option.ne_none_iff_exists'.1 hb
      exact ⟨by simpa [hb, hangEvents] using hs.log, by simpa [hb] using hs.inOp, by simpa [hb] using hs.hung⟩
  all_goals
    obtain ⟨t, ht, hr, hh, hi⟩ := exec_stop_ends h hp
    simp only [waitCompletes, nextWait, hq, hb, List.headD_cons] at hr hh hi
  · exact ⟨t, ht, by simpa [inBound] using hr, by simpa [inBound] using hh⟩
  · exact ⟨t, ht, by simp [hh, inBound]⟩
  · exact ⟨t, ht, hr.trans (by cases k <;> simp [inBound]), hi.trans (by cases k <;> simp [inBound])⟩

/-! ### Operations that stay in a `Wait()` -/

/-- A primitive's body that stays in a `Wait()` is the operation's next state. -/
theorem halted_next {es : List Event} {s x u : State} (h : Ready s) (hu : Halted x u) (hl : x.log = s.log ++ es)
    (hp : x.phase = s.phase) (hca : x.cause = s.cause) (hc : x.cfg = s.cfg) (hh : x.hung = s.hung) (hi : x.inOp = true) :
    u.phase = s.phase ∧ u.owned = x.owned ∧ u.cause = s.cause ∧ u.log = s.log ++ es ++ hangEvents s.cfg.waitBound ∧
      u.wire = x.wire ∧ u.hung = s.cfg.waitBound.isSome ∧ u.inOp = s.cfg.waitBound.isNone := by
  refine ⟨hu.phase.trans hp, hu.owned, hu.cause.trans hca, by rw [hu.log, hl, hc], hu.wire, ?_, ?_⟩
  · rw [hu.hung, hh, h.2, hc, Bool.false_or]
  · rw [hu.inOp, hi, hc, Bool.true_and]

theorem logEvents_nil (s : State) : logEvents [] s = s := by
  simp [logEvents]

/-- The primitive logs `es` before its first `Wait()` (R77 to R82). -/
abbrev LogsFirst (i : Instr) (es : List Event) : Prop :=
  (∃ d dir, i = .start d dir ∧ es = [.start d dir]) ∨ (∃ d dir, i = .repeatStart d dir ∧ es = [.rstart d dir]) ∨
    (i = .stop ∧ es = [.stop]) ∨ (∃ b, i = .writeDevice b ∧ es = [.write b]) ∨
    (i = .readDeviceWithAck ∧ es = []) ∨ (i = .readDeviceWithNak ∧ es = [])

/-- A primitive is no read of a buffer. -/
theorem LogsFirst.admitted {i : Instr} {es : List Event} (hi : LogsFirst i es) {s : State}
    (hp : s.phase ∈ admittingPhases i) : refusalOf i s = none := by
  rcases hi with ⟨d, dir, rfl, -⟩ | ⟨d, dir, rfl, -⟩ | ⟨rfl, -⟩ | ⟨b, rfl, -⟩ | ⟨rfl, -⟩ | ⟨rfl, -⟩ <;>
    exact refusalOf_eq_none.2 ⟨hp, rfl, Nat.zero_le _⟩

/-- A primitive whose first `Wait()` does not complete stays in it, with what it logs before it logged. -/
theorem LogsFirst.halted {i : Instr} {es : List Event} (hi : LogsFirst i es) {s : State}
    (hw : waitCompletes (logEvents es (begun i s)) = false) : Halted (logEvents es (begun i s)) (ran i s) := by
  rcases hi with ⟨d, dir, rfl, rfl⟩ | ⟨d, dir, rfl, rfl⟩ | ⟨rfl, rfl⟩ | ⟨b, rfl, rfl⟩ | ⟨rfl, rfl⟩ | ⟨rfl, rfl⟩
  · obtain ⟨u, hu, hs⟩ := bodyStart_halts d dir hw
    rwa [ran, hu]
  · obtain ⟨u, hu, hs⟩ := bodyStart_halts d dir hw
    rwa [ran, hu]
  · obtain ⟨u, hu, hs⟩ := bodyStop_halts hw
    rwa [ran, hu]
  · obtain ⟨u, hu, hs⟩ := bodyWriteDevice_halts hw
    rwa [ran, hu]
  · rw [logEvents_nil] at hw ⊢
    obtain ⟨u, hu, hs⟩ := bodyRead_halts true hw
    rwa [ran, hu]
  · rw [logEvents_nil] at hw ⊢
    obtain ⟨u, hu, hs⟩ := bodyRead_halts false hw
    rwa [ran, hu]

/-- What a body does where it stays in a `Wait()` holds of an operation that has not returned. -/
theorem complete_not_returned {α : Type} {r : Run α} {write : α → State → State} {D : α → State → Prop} {H : State → Prop}
    {x : State} (h : r.Post D H) (hg : r.Within Going Stuck x) (hx : x.hung = false)
    (hwr : ∀ a t, (write a t).hung = t.hung) (hn : ¬Returned (complete write r)) : H (complete write r) := by
  cases r with
  | done a t => exact absurd ⟨rfl, (hwr a t).trans (hg.2.2.trans hx)⟩ hn
  | halt u => exact h

/-- A primitive that does not return changes neither phase nor cause, and no ownership but that of a start whose condition was
established. -/
theorem primitive_not_returned {i : Instr} {s t : State} (hi : isPrimitive i = true) (h : exec i s = .next t)
    (hn : ¬Returned t) : t.phase = s.phase ∧ t.cause = s.cause ∧
      (t.owned = s.owned ∨ (t.owned = true ∧ ∃ d dir, i = .start d dir ∨ i = .repeatStart d dir)) := by
  obtain ⟨hhung, -, -, rfl⟩ := exec_ran h
  cases i with
  | start d dir =>
    rcases complete_not_returned (write := writeOk) (bodyStart_post (.start d dir) d dir (begun (.start d dir) s))
      (closed_ends.bodyStart _ _ _ _) hhung (fun _ _ => rfl) hn with hu | hu
    · exact ⟨hu.phase, hu.cause, .inl hu.owned⟩
    · exact ⟨hu.phase.trans (by simp [begun]), hu.cause.trans (by simp [begun]),
        .inr ⟨hu.owned.trans (by simp), d, dir, .inl rfl⟩⟩
  | repeatStart d dir =>
    rcases complete_not_returned (write := writeOk) (bodyStart_post (.rstart d dir) d dir (begun (.repeatStart d dir) s))
      (closed_ends.bodyStart _ _ _ _) hhung (fun _ _ => rfl) hn with hu | hu
    · exact ⟨hu.phase, hu.cause, .inl hu.owned⟩
    · exact ⟨hu.phase.trans (by simp [begun]), hu.cause.trans (by simp [begun]),
        .inr ⟨hu.owned.trans (by simp), d, dir, .inr rfl⟩⟩
  | stop =>
    have hu := complete_not_returned (write := writeNothing) (bodyStop_post (begun .stop s)) (closed_ends.bodyStop _) hhung
      (fun _ _ => rfl) hn
    exact ⟨hu.phase, hu.cause, .inl hu.owned⟩
  | writeDevice b =>
    have hu := complete_not_returned (write := writeOk) (bodyWriteDevice_post b (begun (.writeDevice b) s))
      (closed_ends.bodyWriteDevice _ _) hhung (fun _ _ => rfl) hn
    exact ⟨hu.phase, hu.cause, .inl hu.owned⟩
  | readDeviceWithAck =>
    have hu := complete_not_returned (write := writeRd) (bodyRead_post true (begun .readDeviceWithAck s)) (closed_ends.bodyRead _ _)
      hhung (fun _ _ => rfl) hn
    exact ⟨hu.phase, hu.cause, .inl hu.owned⟩
  | readDeviceWithNak =>
    have hu := complete_not_returned (write := writeRd) (bodyRead_post false (begun .readDeviceWithNak s)) (closed_ends.bodyRead _ _)
      hhung (fun _ _ => rfl) hn
    exact ⟨hu.phase, hu.cause, .inl hu.owned⟩
  | _ => cases hi

/-- Settles O13: the three ends of an operation; a primitive that stays in its first `Wait()`, and a start that stays in its
second; and a primitive that does not return. -/
theorem hungIsTerminal : Obligations.HungIsTerminal := by
  refine ⟨fun i s t h hh => ?_, fun i s h => ⟨exec_hung i h, step_hung h⟩, fun i s t h hi => ?_,
    fun i es s hi h hp hw => ?_, fun i tok d dir s w v ws cs hi h hp hc hq hw hv => ?_, fun i s t => primitive_not_returned⟩
  · cases exec_ended h with
    | returned _ hh' _ | blocked _ _ hh' _ _ _ => simp [hh'] at hh
    | hung hb hi _ hl _ hok hrd => exact ⟨hb, hl, hok, hrd, hi⟩
  · cases exec_ended h with
    | returned hi' _ _ | hung _ hi' _ _ _ _ _ => simp [hi'] at hi
    | blocked hb _ hh _ hok hrd => exact ⟨hb, hh, hok, hrd, step_blocked hh hi⟩
  · obtain ⟨inp, hb⟩ := begun_eq i s
    have hs := LogsFirst.halted hi (s := s) (by rw [hb]; exact hw)
    obtain ⟨hph, ho, hca, hl, hx, hh, hi'⟩ := halted_next h hs (es := es) (by rw [hb]; rfl) (by rw [hb]; rfl)
      (by rw [hb]; rfl) (by rw [hb]; rfl) (by rw [hb]; rfl) (by rw [hb]; rfl)
    exact ⟨_, exec_next h.2 h.1 (LogsFirst.admitted hi hp), hph, by rw [ho, hb]; rfl, hca, hl, by rw [hx, hb]; rfl, hh, hi'⟩
  · obtain ⟨u, hu, hs⟩ := bodyStart_halts_second (s := begun (.start d dir) s) (tok := tok) d dir hc hq hw hv
    obtain ⟨hph, ho, hca, hl, hx, hh, hi'⟩ := halted_next h hs (es := [tok]) (by simp [begun]) (by simp [begun])
      (by simp [begun]) (by simp [begun]) (by simp [begun]) (by simp [begun])
    exact ⟨u, by rw [exec_isStart hi h hp, hu]; rfl, hph, by simpa using ho, hca, hl,
      hx.trans (by cases ho' : s.owned <;> simp [begun, ho']), hh, hi'⟩

/-! ### Operations whose every `Wait()` completes -/

/-- An operation in order whose every `Wait()` completes is over, and the waits beyond its own are left. -/
theorem ran_completes {i : Instr} {s : State} {k : Nat} (hz : readsNoByte i = false) (hk : EnvCompletes (k + waitsOf i) s) :
    EnvCompletes k (ran i s) ∧ (ran i s).inOp = false ∧ (ran i s).hung = s.hung := by
  obtain ⟨inp, hb⟩ := begun_eq i s
  have hk : EnvCompletes (k + waitsOf i) (begun i s) := hk.congr (by rw [hb]) (by rw [hb])
  have hh : (begun i s).hung = s.hung := by rw [hb]
  rw [← hh]
  cases i with
  | start d dir | repeatStart d dir => exact (Uses.bodyStart _ _ _ _).complete hk fun _ _ => ⟨rfl, rfl, rfl⟩
  | stop => exact (Uses.bodyStop _).complete hk fun _ _ => ⟨rfl, rfl, rfl⟩
  | writeDevice b => exact (Uses.bodyWriteDevice _ _).complete hk fun _ _ => ⟨rfl, rfl, rfl⟩
  | readDeviceWithAck | readDeviceWithNak => exact (Uses.bodyRead _ _).complete hk fun _ _ => ⟨rfl, rfl, rfl⟩
  | writeBytes d n ss => exact (Uses.bodyWriteBytes d n ss _).complete hk fun _ _ => ⟨rfl, rfl, rfl⟩
  | readBytes d n ss =>
    have hn : 0 < n := Nat.pos_of_ne_zero (by simpa [readsNoByte] using hz)
    exact (Uses.bodyReadBytes d hn ss _).complete hk fun _ _ => ⟨rfl, rfl, rfl⟩
  | writeRegister d r v => exact (Uses.bodyWriteRegister d r v _).complete hk fun _ _ => ⟨rfl, rfl, rfl⟩
  | writeRegisterMulti d r n => exact (Uses.bodyWriteRegisterMulti d r n _).complete hk fun _ _ => ⟨rfl, rfl, rfl⟩
  | readRegister d r => exact (Uses.bodyReadRegister d r _).complete hk fun _ _ => ⟨rfl, rfl, rfl⟩
  | readRegisterMulti d r n =>
    have hn : 0 < n := Nat.pos_of_ne_zero (by simpa [readsNoByte] using hz)
    exact (Uses.bodyReadRegisterMulti d r hn _).complete hk fun _ _ => ⟨rfl, rfl, rfl⟩
  | scanBus => exact (Uses.scanLoop 126 1 _).complete hk fun _ _ => ⟨rfl, rfl, rfl⟩

theorem exec_completes {i : Instr} {s : State} {k : Nat} (h : Ready s) (hr : refusalOf i s = none)
    (hk : EnvCompletes (k + waitsOf i) s) :
    ∃ t, exec i s = .next t ∧ Returned t ∧ t.opIndex = s.opIndex + 1 ∧ EnvCompletes k t := by
  obtain ⟨hk', hi, hh⟩ := ran_completes (refusalOf_eq_none.1 hr).2.1 hk
  have ht : Returned (ran i s) := ⟨hi, hh.trans h.2⟩
  have he := exec_next h.2 h.1 hr
  exact ⟨_, he, ht, (opIndexAdvancesByOne _ _ _ he).1 ht, hk'⟩

/-- Settles O14: the waits its body may come to are among those that complete. -/
theorem completesWhenWaitsComplete : Obligations.CompletesWhenWaitsComplete := by
  intro i s h hp hz hb hk
  obtain ⟨t, ht, hr, hx, -⟩ := exec_completes (k := 0) h (refusalOf_eq_none.2 ⟨hp, hz, hb⟩) (by rwa [Nat.zero_add])
  exact ⟨t, ht, hr, hx⟩

/-! ### The end of a run -/

theorem waitsLeft_of_fetch {s : State} {c : Command} {i : Instr} (hc : fetch s = some c) (hd : decode c.word = .ok i) :
    waitsLeft s = listWaits (s.ops.drop (s.opIndex + 1)) + waitsOf i := by
  obtain ⟨hlt, hc⟩ := List.getElem?_eq_some_iff.1 hc
  rw [waitsLeft, List.drop_eq_getElem_cons hlt, hc, listWaits, commandWaits, hd, Nat.add_comm]

/-- Where a run has come, in no more steps than it has moves and operations left: to the end of its list or to a refusal. -/
def ComesToEnd (s : State) : Prop :=
  ∃ (k : Nat) (t : State), k ≤ s.moves.length + (s.ops.length - s.opIndex) ∧ Sys2Proof.core.run k s = .next t ∧
    ((step t = .fault .runEnded ∧ (RunEnded t ∨ t.refused = true ∨ t.faulted = true)) ∨ ∃ r, step t = .refused r)

theorem ComesToEnd.of_refused {s : State} {r : Refusal} (h : step s = .refused r) : ComesToEnd s :=
  ⟨0, s, Nat.zero_le _, rfl, .inr ⟨r, h⟩⟩

/-- A run that steps on. -/
theorem coreRun_succ_of_next (M : Host.Core) {k : Nat} {s t : M.State} (h : M.step s = .next t) :
    M.run (k + 1) s = M.run k t := by
  rw [Host.Core.run, h]

/-- One step closer. -/
theorem ComesToEnd.of_step {s t : State} (h : step s = .next t) (ht : ComesToEnd t)
    (hlt : t.moves.length + (t.ops.length - t.opIndex) < s.moves.length + (s.ops.length - s.opIndex)) : ComesToEnd s := by
  obtain ⟨k, u, hk, hu, he⟩ := ht
  exact ⟨k + 1, u, by omega, (coreRun_succ_of_next Sys2Proof.core h).trans hu, he⟩

theorem comesToEnd_of_ended {s : State} (h : Ready s) (hx : s.opIndex ≤ s.ops.length) (hm : dueMove s = none)
    (hc : fetch s = none) : ComesToEnd s := by
  have hge : s.ops.length ≤ s.opIndex := List.getElem?_eq_none_iff.1 hc
  refine ⟨0, s, Nat.zero_le _, rfl, .inl ⟨step_runEnded h hm hc, ?_⟩⟩
  cases hr : s.refused with
  | true => exact .inr (.inl rfl)
  | false =>
    cases hf : s.faulted with
    | true => exact .inr (.inr rfl)
    | false => exact .inl ⟨Nat.le_antisymm hx hge, h.1, hr, hf, h.2⟩

/-- A move of the caller leaves the machine ready, its list and its environment as they were, and one move fewer. -/
theorem step_dueMove {s : State} {m : CallerMove} (h : Ready s) (hm : dueMove s = some m) :
    ∃ t, step s = .next t ∧ Ready t ∧ t.ops = s.ops ∧ t.opIndex = s.opIndex ∧ t.cfg = s.cfg ∧ t.env = s.env ∧
      t.moves.length < s.moves.length := by
  obtain ⟨f, mem, he, -⟩ := performMove_eq m (dropMove s)
  refine ⟨_, step_move h hm, ?_⟩
  rw [he]
  refine ⟨h, rfl, rfl, rfl, rfl, ?_⟩
  cases hs : s.moves with
  | nil => simp [dueMove, hs] at hm
  | cons x ms => simp [dropMove, hs]

/-- An operation that returns leaves one operation fewer. -/
theorem step_completes {s : State} {c : Command} {i : Instr} (h : Ready s) (hm : dueMove s = none) (hc : fetch s = some c)
    (hd : decode c.word = .ok i) (hr : refusalOf i (issue c s) = none) (hk : EnvCompletes (waitsLeft s) s) :
    ∃ t, step s = .next t ∧ Ready t ∧ t.ops = s.ops ∧ t.moves = s.moves ∧ t.opIndex = s.opIndex + 1 ∧
      EnvCompletes (waitsLeft t) t := by
  rw [waitsLeft_of_fetch hc hd] at hk
  obtain ⟨t, ht, hret, hx, hk'⟩ := exec_completes (s := issue c s) h hr (hk.congr rfl rfl)
  have hf := exec_framed ht
  refine ⟨t, (step_exec h hm hc hd).trans ht, hret, hf.ops, hf.moves, hx, ?_⟩
  rwa [waitsLeft, hf.ops, hx]

/-- Settles O59: by induction on the moves and operations left; a move or an operation that returns is one of them. -/
theorem runEndsWhenEveryWaitCompletes : Obligations.RunEndsWhenEveryWaitCompletes := by
  suffices key : ∀ (n : Nat) (s : State), s.moves.length + (s.ops.length - s.opIndex) = n → Ready s →
      s.opIndex ≤ s.ops.length → EnvCompletes (waitsLeft s) s → ComesToEnd s from fun s => key _ s rfl
  intro n
  induction n using Nat.strong_induction_on with
  | _ n ih =>
    rintro s rfl h hx hk
    cases hm : dueMove s with
    | some m =>
      obtain ⟨t, ht, hret, ho, hx', hcfg, henv, hlt⟩ := step_dueMove h hm
      have hless : t.moves.length + (t.ops.length - t.opIndex) < s.moves.length + (s.ops.length - s.opIndex) := by
        rw [ho, hx']; omega
      exact .of_step ht (ih _ hless t rfl hret (by rw [ho, hx']; exact hx)
        (by rw [waitsLeft, ho, hx']; exact hk.congr hcfg (by rw [henv]))) hless
    | none =>
      cases hc : fetch s with
      | none => exact comesToEnd_of_ended h hx hm hc
      | some c =>
        cases hd : decode c.word with
        | error e => cases e; exact .of_refused (step_illegal h hm hc hd)
        | ok i =>
          cases hr : refusalOf i (issue c s) with
          | some r => exact .of_refused ((step_exec h hm hc hd).trans (exec_refused h.2 h.1 hr))
          | none =>
            have hlen : s.opIndex < s.ops.length := (List.getElem?_eq_some_iff.1 hc).1
            obtain ⟨t, ht, hret, ho, hmv, hx', hk'⟩ := step_completes h hm hc hd hr hk
            have hless : t.moves.length + (t.ops.length - t.opIndex) < s.moves.length + (s.ops.length - s.opIndex) := by
              rw [ho, hx', hmv]; omega
            exact .of_step ht (ih _ hless t rfl hret (by rw [ho, hx']; exact hlen) hk') hless

end Sys2Proof.Machine
end

section
/-! The composites where the environment's answers are queued and every `Wait()` completes: what each logs, drives, stores and
answers. -/

namespace Sys2Proof.Machine

/-! ### The bytes of the buffer -/

theorem bufferBytes_eq_range' (buf : BufRef) (n : Nat) (s : State) :
    bufferBytes buf n s = (List.range' 0 n).map fun j => memRead buf j s := by
  rw [bufferBytes, List.range_eq_range']

theorem bufferBytes_congr {s t : State} (h : t.mem = s.mem) (buf : BufRef) (n : Nat) :
    bufferBytes buf n t = bufferBytes buf n s := by
  unfold bufferBytes memRead
  rw [h]

/-- What stands in the buffer after bytes are stored in it from its start. -/
theorem bufferBytes_writeAll {s t : State} (hm : Memory.wf s.mem) {buf : BufRef} {vs : List Byte}
    (ht : t.mem = s.mem.writeAll (buf.addr 0) vs) : bufferBytes buf vs.length t = vs := by
  refine List.ext_getElem (by simp [bufferBytes]) fun j _ hj => ?_
  have h := Memory.read_writeAll hm (a := buf.addr 0) hj
  simpa [bufferBytes, memRead, ht, BufRef.addr] using h

/-- Bytes stored from the start of the buffer leave every address outside them as it was. -/
theorem read_writeAll_outside {s t : State} {buf : BufRef} {vs : List Byte} {n a : Nat} (hn : vs.length = n)
    (ht : t.mem = s.mem.writeAll (buf.addr 0) vs) (ha : ∀ j, j < n → a ≠ buf.addr j) : t.mem.read a = s.mem.read a := by
  rw [ht]
  refine Memory.read_writeAll_other (Decidable.byContradiction fun hc => ?_)
  simp only [BufRef.addr] at ha hc
  exact ha (a - buf.base) (by omega) (by omega)

/-! ### The bodies -/

section
variable {s : State}

theorem bodyWriteBytes_done (d : Addr7) {n : Nat} (ss : Bool) {cs as rest : List Bool} (hc : s.env.startConds = true :: cs)
    (ha : s.env.acks = true :: as ++ rest) (hn : as.length = n) (hw : WaitsComplete (n + 3) s) :
    ∃ t, bodyWriteBytes d n ss s = .done (if s.cfg.wbPropagateDataNak then as.all (fun a => a) else true) t ∧
      t.log = s.log ++ [Event.start d .W, .addrAck] ++ writeEvents false (bufferBytes s.buf n s) as ++ stopEvents ss ∧
      t.wire = s.wire ++ addressWire s.owned d .W true ++ writeWire false (bufferBytes s.buf n s) as ++ stopWire ss ∧
      t.phase = (if ss then .idle else .tx) ∧ t.owned = !ss ∧ Quiet s t := by
  obtain ⟨t, ht, htl, htx, htp, hto, -, hta, -, htw, htq⟩ := start_step (.start d .W) d .W hc ha (hw.mono (by omega))
  obtain ⟨u, hu, hul, hux, hup, huo, huw, huq⟩ := writeLoop_step false s.buf n 0 htp hta hn
    (htw n (hw.mono (by omega)))
  obtain ⟨v, hv, hvl, hvx, hvp, hvo, hvq⟩ := stopIf_step ss ((htw.trans huw) 1 (hw.mono (by omega)))
  rw [← bufferBytes_eq_range', bufferBytes_congr htq.2.1] at hul hux
  refine ⟨v, ?_, ?_, ?_, ?_, ?_, (htq.trans huq).trans hvq⟩
  · simp [bodyWriteBytes, onSuccess, callStart, ht, hu, hv]
  · rw [hvl, hul, htl]; rfl
  · rw [hvx, hux, htx]
  · rw [hvp, hup]
  · rw [hvo, huo, hto, Bool.and_true]

theorem bodyReadBytes_done (d : Addr7) {n : Nat} (h1 : 1 ≤ n) (ss : Bool) {cs as : List Bool} {vs rest : List Byte}
    (hc : s.env.startConds = true :: cs) (ha : s.env.acks = true :: as) (hv : s.env.bytes = vs ++ rest)
    (hn : vs.length = n) (hw : WaitsComplete (n + 3) s) :
    ∃ t, bodyReadBytes d n ss s = .done true t ∧
      t.log = s.log ++ [Event.start d .R, .addrAck] ++ readEvents vs ++ stopEvents ss ∧
      t.wire = s.wire ++ addressWire s.owned d .R true ++ readWire vs ++ stopWire ss ∧
      t.phase = (if ss then .idle else .rxEnd) ∧ t.owned = !ss ∧ t.mem = s.mem.writeAll (s.buf.addr 0) vs ∧ Going s t := by
  obtain ⟨t, ht, htl, htx, htp, hto, -, -, htb, htw, htq⟩ := start_step (.start d .R) d .R hc ha (hw.mono (by omega))
  obtain ⟨u, hu, hul, hux, hup, huo, hum, -, huw, hug⟩ := readPhase_step s.buf h1 htp (htb.trans hv) hn
    (htw n (hw.mono (by omega)))
  obtain ⟨v, hv, hvl, hvx, hvp, hvo, hvq⟩ := stopIf_step ss ((htw.trans huw) 1 (hw.mono (by omega)))
  refine ⟨v, ?_, ?_, ?_, ?_, ?_, ?_, closed_ends.trans (closed_ends.trans htq.1 hug) hvq.1⟩
  · simp [bodyReadBytes, onSuccess, callStart, ht, hu, hv]
  · rw [hvl, hul, htl]; rfl
  · rw [hvx, hux, htx]
  · rw [hvp, hup]
  · rw [hvo, huo, hto, Bool.and_true]
  · rw [hvq.2.1, hum, htq.2.1]

theorem bodyWriteRegister_done (d : Addr7) (r v : Byte) {cs as : List Bool} {ar av : Bool}
    (hc : s.env.startConds = true :: cs) (ha : s.env.acks = true :: ar :: av :: as) (hw : WaitsComplete 5 s) :
    ∃ t, bodyWriteRegister d r v s = .done (ar && av) t ∧
      t.log = s.log ++ [Event.start d .W, .addrAck] ++ writeEvents false [r, v] [ar, av] ++ [Event.stop] ∧
      t.wire = s.wire ++ addressWire s.owned d .W true ++ writeWire false [r, v] [ar, av] ++ [WireSym.P] ∧
      t.phase = .idle ∧ t.owned = false ∧ Quiet s t := by
  obtain ⟨t, ht, htl, htx, -, -, -, hta, -, htw, htq⟩ := start_step (.start d .W) d .W hc ha (hw.mono (by omega))
  obtain ⟨u, hu, hul, hux, -, -, -, hua, -, huw, huq⟩ := write_step r hta (htw 1 (hw.mono (by omega)))
  cases ar with
  | false =>
    obtain ⟨x, hx, hxl, hxx, hxp, hxo, -, -, -, -, hxq⟩ := stop_step ((htw.trans huw) 1 (hw.mono (by omega)))
    refine ⟨x, ?_, ?_, ?_, hxp, hxo, (htq.trans huq).trans hxq⟩
    · simp [bodyWriteRegister, onSuccess, callStart, stopThen, ht, hu, hx]
    · rw [hxl, hul, htl]; rfl
    · rw [hxx, hux, htx]; simp [writeWire]
  | true =>
    obtain ⟨w, hv, hvl, hvx, -, -, -, -, -, hvw, hvq⟩ := write_step v hua ((htw.trans huw) 1 (hw.mono (by omega)))
    obtain ⟨x, hx, hxl, hxx, hxp, hxo, -, -, -, -, hxq⟩ := stop_step (((htw.trans huw).trans hvw) 1 (hw.mono (by omega)))
    refine ⟨x, ?_, ?_, ?_, hxp, hxo, ((htq.trans huq).trans hvq).trans hxq⟩
    · simp [bodyWriteRegister, onSuccess, callStart, stopThen, ht, hu, hv, hx]
    · rw [hxl, hvl, hul, htl]; simp [writeEvents]
    · rw [hxx, hvx, hux, htx]; simp [writeWire]

theorem bodyWriteRegisterMulti_done (d : Addr7) (r : Byte) {n : Nat} {cs as rest : List Bool} {ar : Bool}
    (hc : s.env.startConds = true :: cs) (ha : s.env.acks = true :: ar :: as ++ rest) (hn : as.length = n)
    (hw : WaitsComplete (n + 4) s) :
    ∃ t, bodyWriteRegisterMulti d r n s = .done (ar && as.all (fun a => a)) t ∧
      t.log = s.log ++ [Event.start d .W, .addrAck, .write r, if ar then .ack else Event.nak] ++
        (if ar then writeEvents s.cfg.wrmContinueAfterNak (bufferBytes s.buf n s) as else []) ++ [Event.stop] ∧
      t.wire = s.wire ++ addressWire s.owned d .W true ++ masterByte r ++ [WireSym.T (ackLevel ar)] ++
        (if ar then writeWire s.cfg.wrmContinueAfterNak (bufferBytes s.buf n s) as else []) ++ [WireSym.P] ∧
      t.phase = .idle ∧ t.owned = false ∧ Quiet s t := by
  obtain ⟨t, ht, htl, htx, -, -, -, hta, -, htw, htq⟩ := start_step (.start d .W) d .W hc ha (hw.mono (by omega))
  obtain ⟨u, hu, hul, hux, hup, -, -, hua, -, huw, huq⟩ := write_step r hta (htw 1 (hw.mono (by omega)))
  cases ar with
  | false =>
    obtain ⟨x, hx, hxl, hxx, hxp, hxo, -, -, -, -, hxq⟩ := stop_step ((htw.trans huw) 1 (hw.mono (by omega)))
    refine ⟨x, ?_, ?_, ?_, hxp, hxo, (htq.trans huq).trans hxq⟩
    · simp [bodyWriteRegisterMulti, onSuccess, callStart, stopThen, ht, hu, hx]
    · rw [hxl, hul, htl]; simp
    · rw [hxx, hux, htx]; simp
  | true =>
    obtain ⟨w, hv, hvl, hvx, -, -, hvw, hvq⟩ := writeLoop_step s.cfg.wrmContinueAfterNak s.buf n 0 hup hua hn
      ((htw.trans huw) n (hw.mono (by omega)))
    rw [← bufferBytes_eq_range', bufferBytes_congr (htq.trans huq).2.1] at hvl hvx
    obtain ⟨x, hx, hxl, hxx, hxp, hxo, -, -, -, -, hxq⟩ := stop_step (((htw.trans huw).trans hvw) 1 (hw.mono (by omega)))
    refine ⟨x, ?_, ?_, ?_, hxp, hxo, ((htq.trans huq).trans hvq).trans hxq⟩
    · simp [bodyWriteRegisterMulti, onSuccess, callStart, stopThen, ht, hu, hv, hx]
    · rw [hxl, hvl, hul, htl]; simp
    · rw [hxx, hvx, hux, htx]; simp

theorem bodyReadRegister_done (d : Addr7) (r : Byte) {v : Byte} {cs as : List Bool} {vs : List Byte}
    (hc : s.env.startConds = true :: true :: cs) (ha : s.env.acks = true :: true :: true :: as)
    (hv : s.env.bytes = v :: vs) (hw : WaitsComplete 7 s) :
    ∃ t, bodyReadRegister d r s = .done (some v) t ∧
      t.log = s.log ++ [Event.start d .W, .addrAck, .write r, .ack, .rstart d .R, .addrAck, .read v, .nak, .stop] ∧
      t.wire = s.wire ++ addressWire s.owned d .W true ++ masterByte r ++ [WireSym.T (ackLevel true)] ++
        addressWire true d .R true ++ targetByte v ++ [WireSym.M (ackLevel false), .P] ∧
      t.phase = .idle ∧ t.owned = false ∧ Quiet s t := by
  obtain ⟨t, ht, htl, htx, -, -, htb, htw, htq⟩ := selectRegister_step d r hc ha (hw.mono (by omega))
  obtain ⟨u, hu, hul, hux, -, -, -, -, -, huw, huq⟩ := read_step false (htb.trans hv) (htw 1 (hw.mono (by omega)))
  obtain ⟨x, hx, hxl, hxx, hxp, hxo, -, -, -, -, hxq⟩ := stop_step ((htw.trans huw) 1 (hw.mono (by omega)))
  refine ⟨x, ?_, ?_, ?_, hxp, hxo, (htq.trans huq).trans hxq⟩
  · simp [bodyReadRegister, ht, hu, hx]
  · rw [hxl, hul, htl]; simp
  · rw [hxx, hux, htx]; simp

theorem bodyReadRegisterMulti_done (d : Addr7) (r : Byte) {n : Nat} (h1 : 1 ≤ n) {cs as : List Bool} {vs rest : List Byte}
    (hc : s.env.startConds = true :: true :: cs) (ha : s.env.acks = true :: true :: true :: as)
    (hv : s.env.bytes = vs ++ rest) (hn : vs.length = n) (hw : WaitsComplete (n + 6) s) :
    ∃ t, bodyReadRegisterMulti d r n s = .done true t ∧
      t.log = s.log ++ [Event.start d .W, .addrAck, .write r, .ack, .rstart d .R, .addrAck] ++ readEvents vs ++ [Event.stop] ∧
      t.wire = s.wire ++ addressWire s.owned d .W true ++ masterByte r ++ [WireSym.T (ackLevel true)] ++
        addressWire true d .R true ++ readWire vs ++ [WireSym.P] ∧
      t.phase = .idle ∧ t.owned = false ∧ t.mem = s.mem.writeAll (s.buf.addr 0) vs ∧ Going s t := by
  obtain ⟨t, ht, htl, htx, htp, -, htb, htw, htq⟩ := selectRegister_step d r hc ha (hw.mono (by omega))
  obtain ⟨u, hu, hul, hux, -, -, hum, -, huw, hug⟩ := readPhase_step s.buf h1 htp (htb.trans hv) hn
    (htw n (hw.mono (by omega)))
  obtain ⟨x, hx, hxl, hxx, hxp, hxo, -, -, -, -, hxq⟩ := stop_step ((htw.trans huw) 1 (hw.mono (by omega)))
  refine ⟨x, ?_, ?_, ?_, hxp, hxo, ?_, closed_ends.trans (closed_ends.trans htq.1 hug) hxq.1⟩
  · simp [bodyReadRegisterMulti, onSuccess, stopThen, ht, hu, hx]
  · rw [hxl, hul, htl]
  · rw [hxx, hux, htx]; simp
  · rw [hxq.2.1, hum, htq.2.1]

end

/-! ### The operations -/

/-- Settles O28: the body for the queued answers, its result written. -/
theorem writeBytesSendsBuffer : Obligations.WriteBytesSendsBuffer := by
  intro d n ss s cs as rest h hp hn hc ha hk hw
  obtain ⟨u, hu, hl, hx, hph, ho, ⟨hkept, -⟩, -⟩ := bodyWriteBytes_done (s := begun (.writeBytes d n ss) s) d ss hc ha hk hw
  have he := exec_next h.2 h.1 (refusalOf_eq_none (i := .writeBytes d n ss).2 ⟨mem_of_ne_rx hp, rfl, hn⟩)
  refine ⟨endOp (writeOk _ u), by rw [he, ran, hu]; rfl, hl, hx, rfl, hph, ho, ?_, ?_, ?_, rfl, ?_⟩
  · simp [hkept.inp, begun]
  · simp [hkept.inp, begun]
  · simp [hkept.inp, begun]
  · simp [hkept.opIndex, begun]

/-- Settles O29: the body for the queued answers, and what its stores leave in the buffer. -/
theorem readBytesFillsBuffer : Obligations.ReadBytesFillsBuffer := by
  intro d n ss s cs as vs rest h hp h1 hn hm hc ha hv hk hw
  obtain ⟨u, hu, hl, hx, hph, ho, hmem, hkept, -⟩ :=
    bodyReadBytes_done (s := begun (.readBytes d n ss) s) d h1 ss hc ha hv hk hw
  have hz : readsNoByte (.readBytes d n ss) = false := beq_false_of_ne (by omega)
  have he := exec_next h.2 h.1 (refusalOf_eq_none (i := .readBytes d n ss).2 ⟨mem_of_ne_rx hp, hz, hn⟩)
  refine ⟨endOp (writeOk _ u), by rw [he, ran, hu]; rfl, hl, hx, ?_, fun a => read_writeAll_outside (t := u) hk hmem, rfl,
    hkept.rd, hph, ho, ?_, ?_, ?_, rfl, ?_⟩
  · exact hk ▸ bufferBytes_writeAll (t := u) hm hmem
  · simp [hkept.inp, begun]
  · simp [hkept.inp, begun]
  · simp [hkept.inp, begun]
  · simp [hkept.opIndex, begun]

/-- Settles O30: the body for the queued answers, its result written. -/
theorem writeRegisterSendsRegisterAndData : Obligations.WriteRegisterSendsRegisterAndData := by
  intro d r v s cs as ar av h hp hc ha hw
  obtain ⟨u, hu, hl, hx, hph, ho, ⟨hkept, -⟩, -⟩ := bodyWriteRegister_done (s := begun (.writeRegister d r v) s) d r v hc ha hw
  have he := exec_next h.2 h.1 (refusalOf_eq_none (i := .writeRegister d r v).2 ⟨mem_of_ne_rx hp, rfl, Nat.zero_le _⟩)
  refine ⟨endOp (writeOk _ u), by rw [he, ran, hu]; rfl, hl, hx, rfl, hph, ho, ?_, ?_, ?_, rfl, ?_⟩
  · simp [hkept.inp, begun]
  · simp [hkept.inp, begun]
  · simp [hkept.inp, begun]
  · simp [hkept.opIndex, begun]

/-- Settles O31: the body for the queued answers, its result written. -/
theorem writeRegisterMultiSendsBuffer : Obligations.WriteRegisterMultiSendsBuffer := by
  intro d r n s cs as rest ar h hp hn hc ha hk hw
  obtain ⟨u, hu, hl, hx, hph, ho, ⟨hkept, -⟩, -⟩ :=
    bodyWriteRegisterMulti_done (s := begun (.writeRegisterMulti d r n) s) d r hc ha hk hw
  have he := exec_next h.2 h.1 (refusalOf_eq_none (i := .writeRegisterMulti d r n).2 ⟨mem_of_ne_rx hp, rfl, hn⟩)
  refine ⟨endOp (writeOk _ u), by rw [he, ran, hu]; rfl, hl, hx, rfl, hph, ho, ?_, ?_, ?_, rfl, ?_⟩
  · simp [hkept.inp, begun]
  · simp [hkept.inp, begun]
  · simp [hkept.inp, begun]
  · simp [hkept.opIndex, begun]

/-- Settles O32: the body for the queued answers, its results written. -/
theorem readRegisterSucceeds : Obligations.ReadRegisterSucceeds := by
  intro d r v s cs as vs h hp hc ha hv hw
  obtain ⟨u, hu, hl, hx, hph, ho, ⟨hkept, -⟩, -⟩ := bodyReadRegister_done (s := begun (.readRegister d r) s) d r hc ha hv hw
  have he := exec_next h.2 h.1 (refusalOf_eq_none (i := .readRegister d r).2 ⟨mem_of_ne_rx hp, rfl, Nat.zero_le _⟩)
  refine ⟨endOp (writeOkRd (some v) u), by rw [he, ran, hu]; rfl, hl, hx, rfl, rfl, hph, ho, ?_, ?_, rfl, ?_⟩
  · simp [hkept.inp, begun]
  · simp [hkept.inp, begun]
  · simp [hkept.opIndex, begun]

/-- Settles O35: the body for the queued answers, and what its stores leave in the buffer. -/
theorem readRegisterMultiFillsBuffer : Obligations.ReadRegisterMultiFillsBuffer := by
  intro d r n s cs as vs rest h hp h1 hn hm hc ha hv hk hw
  obtain ⟨u, hu, hl, hx, hph, ho, hmem, hkept, -⟩ :=
    bodyReadRegisterMulti_done (s := begun (.readRegisterMulti d r n) s) d r h1 hc ha hv hk hw
  have hz : readsNoByte (.readRegisterMulti d r n) = false := beq_false_of_ne (by omega)
  have he := exec_next h.2 h.1 (refusalOf_eq_none (i := .readRegisterMulti d r n).2 ⟨mem_of_ne_rx hp, hz, hn⟩)
  refine ⟨endOp (writeOk _ u), by rw [he, ran, hu]; rfl, hl, hx, ?_, fun a => read_writeAll_outside (t := u) hk hmem, rfl,
    hkept.rd, hph, ho, ?_, ?_, ?_, rfl, ?_⟩
  · exact hk ▸ bufferBytes_writeAll (t := u) hm hmem
  · simp [hkept.inp, begun]
  · simp [hkept.inp, begun]
  · simp [hkept.inp, begun]
  · simp [hkept.opIndex, begun]

/-- Settles O38: the loop over the 126 queued answers. -/
theorem scanBusFindsResponders : Obligations.ScanBusFindsResponders := by
  intro s cs as ar vs rest h hp hc ha hk hv hn hw
  obtain ⟨u, hu, hl, hx, hend, hkept, -⟩ := scanLoop_step (s := begun .scanBus s) 126 1 hc ha hk hv
    (by rw [hn, ← hk]; exact List.count_le_length) hw
  obtain ⟨hph, ho⟩ := hend (by rintro rfl; cases hk)
  have he := exec_next h.2 h.1 (refusalOf_eq_none (i := .scanBus).2 ⟨mem_of_ne_rx hp, rfl, Nat.zero_le _⟩)
  refine ⟨endOp u, by rw [he, ran, bodyScanBus, hu]; rfl, hl, hx, hkept.ok, hkept.rd, hph, ho, rfl, ?_⟩
  simp [hkept.opIndex, begun]

end Sys2Proof.Machine
end

section
/-! The composites over every environment: what each has logged, stored and left where it returns. -/

namespace Sys2Proof.Machine

/-! ### An operation that returned -/

/-- Where an operation has returned, its body returned, and its results are written (R85, R86). -/
theorem returned_done {α : Type} {r : Run α} {write : α → State → State} {x t : State} (hg : r.Within Going Stuck x)
    (hx : x.inOp = true) (ht : t = complete write r) (hr : Returned t) : ∃ a u, r = .done a u ∧ t = endOp (write a u) := by
  subst ht
  cases r with
  | done a u => exact ⟨a, u, rfl, rfl⟩
  | halt u =>
    obtain ⟨hi, hh⟩ : u.inOp = false ∧ u.hung = false := hr
    rcases Stuck.not_returned hg hx with h | h
    · simp [hi] at h
    · simp [hh] at h

/-- A buffer read that was not refused reads a byte. -/
theorem pos_of_readsNoByte {n : Nat} (h : (n == 0) = false) : 0 < n :=
  Nat.pos_of_ne_zero (by simpa using h)

section
variable {s t : State} (hr : Returned t)
include hr

theorem exec_writeBytes_returned {d : Addr7} {n : Nat} {ss : Bool} (h : exec (.writeBytes d n ss) s = .next t) :
    ∃ a u, bodyWriteBytes d n ss (begun (.writeBytes d n ss) s) = .done a u ∧ t = endOp (writeOk a u) := by
  obtain ⟨-, -, -, ht⟩ := exec_ran h
  exact returned_done (closed_ends.bodyWriteBytes d n ss _) rfl ht hr

theorem exec_readBytes_returned {d : Addr7} {n : Nat} {ss : Bool} (h : exec (.readBytes d n ss) s = .next t) :
    0 < n ∧ ∃ a u, bodyReadBytes d n ss (begun (.readBytes d n ss) s) = .done a u ∧ t = endOp (writeOk a u) := by
  obtain ⟨-, -, hn, ht⟩ := exec_ran h
  have hn := pos_of_readsNoByte (refusalOf_eq_none.1 hn).2.1
  exact ⟨hn, returned_done (closed_ends.bodyReadBytes hn (fun _ _ _ _ => Going.storeByte _ _ _) d ss) rfl ht hr⟩

theorem exec_writeRegister_returned {d : Addr7} {r v : Byte} (h : exec (.writeRegister d r v) s = .next t) :
    ∃ a u, bodyWriteRegister d r v (begun (.writeRegister d r v) s) = .done a u ∧ t = endOp (writeOk a u) := by
  obtain ⟨-, -, -, ht⟩ := exec_ran h
  exact returned_done (closed_ends.bodyWriteRegister d r v _) rfl ht hr

theorem exec_writeRegisterMulti_returned {d : Addr7} {r : Byte} {n : Nat}
    (h : exec (.writeRegisterMulti d r n) s = .next t) :
    ∃ a u, bodyWriteRegisterMulti d r n (begun (.writeRegisterMulti d r n) s) = .done a u ∧ t = endOp (writeOk a u) := by
  obtain ⟨-, -, -, ht⟩ := exec_ran h
  exact returned_done (closed_ends.bodyWriteRegisterMulti d r n _) rfl ht hr

theorem exec_readRegister_returned {d : Addr7} {r : Byte} (h : exec (.readRegister d r) s = .next t) :
    ∃ a u, bodyReadRegister d r (begun (.readRegister d r) s) = .done a u ∧ t = endOp (writeOkRd a u) := by
  obtain ⟨-, -, -, ht⟩ := exec_ran h
  exact returned_done (closed_ends.bodyReadRegister d r _) rfl ht hr

theorem exec_readRegisterMulti_returned {d : Addr7} {r : Byte} {n : Nat}
    (h : exec (.readRegisterMulti d r n) s = .next t) :
    0 < n ∧ ∃ a u, bodyReadRegisterMulti d r n (begun (.readRegisterMulti d r n) s) = .done a u ∧ t = endOp (writeOk a u) := by
  obtain ⟨-, -, hn, ht⟩ := exec_ran h
  have hn := pos_of_readsNoByte (refusalOf_eq_none.1 hn).2.1
  exact ⟨hn, returned_done (closed_ends.bodyReadRegisterMulti hn (fun _ _ _ _ => Going.storeByte _ _ _) d r) rfl ht hr⟩

theorem exec_scanBus_returned (h : exec .scanBus s = .next t) :
    ∃ u, bodyScanBus (begun .scanBus s) = .done () u ∧ t = endOp u := by
  obtain ⟨-, -, -, ht⟩ := exec_ran h
  obtain ⟨_, u, hu, ht⟩ := returned_done (closed_ends.bodyScanBus (fun h => h.1.cb) fun _ _ _ => Going.callbackAct _ _) rfl
    ht hr
  exact ⟨u, hu, ht⟩

end

/-! ### A first start that fails -/

/-- What a start that fails leaves: its result is `false`, its failure is logged, and no byte is stored. -/
def FailedStart (tok : Event) (b : Bool) (s : State) (a : Bool) (t : State) : Prop :=
  a = false ∧ t.log = s.log ++ [tok, if b then .addrNak else .startFail] ∧ t.mem = s.mem

theorem addressPhase_fails (d : Addr7) (dir : Dir) {s : State} {as : List Bool} (ha : s.env.acks = false :: as) :
    (addressPhase d dir s).Post (fun a t => a = false ∧ t.log = s.log ++ [.addrNak] ∧ t.mem = s.mem) fun _ => True := by
  refine (wait_post _).bind (fun _ _ => trivial) ?_
  rintro _ _ rfl
  obtain ⟨u, hu, hl, -⟩ := addressDone_done d dir (a := false) (as := as)
    (s := popWait (onBackend (twiSendIssue (slaByte d dir)) (usiSendIssue (slaByte d dir)) s)) (by simpa using ha)
  have hm := (closed_mem.addressDone d dir _).of_done hu
  rw [hu]
  exact ⟨rfl, hl, hm.1⟩

theorem bodyStart_fails (tok : Event) (d : Addr7) (dir : Dir) {s : State} {b : Bool} {cs : List Bool}
    (hc : s.env.startConds = b :: cs) (hb : b = true → ∃ as, s.env.acks = false :: as) :
    (bodyStart tok d dir s).Post (FailedStart tok b s) fun _ => True := by
  refine (wait_post _).bind (fun _ _ => trivial) ?_
  rintro _ _ rfl
  have hn : nextStartCond (popWait (onBackend twiStartIssue usiStartIssue (logEvents [tok] s))) = b := by
    simp [nextStartCond, hc]
  rw [hn]
  cases b with
  | false => exact ⟨rfl, by simp [startFailed], by simp [startFailed]⟩
  | true =>
    obtain ⟨as, ha⟩ := hb rfl
    refine (addressPhase_fails d dir (as := as) (by simpa using ha)).imp ?_ fun _ h => h
    rintro _ u ⟨rfl, hl, hm⟩
    exact ⟨rfl, by simpa using hl, by simpa using hm⟩

section
variable {tok : Event} {b : Bool} {s : State}

/-- Where the step before fails, the steps after a success are not run. -/
theorem Run.Post.onSuccess_failed {r : Run Bool} {H : State → Prop} (h : r.Post (FailedStart tok b s) H)
    (f : State → Run Bool) :
    (Machine.onSuccess r f).Post (FailedStart tok b s) H :=
  Run.Post.onSuccess h (fun _ ht => by cases ht.1) fun _ ht => ht

theorem Run.Post.bodyReadRegister_failed {d : Addr7} {r : Byte} {x : State} {H : State → Prop}
    (h : (selectRegister d r x).Post (FailedStart tok b s) H) :
    (Machine.bodyReadRegister d r x).Post (fun a t => FailedStart tok b s a.isSome t) H :=
  h.bind (fun _ h => h) fun a t ht => by
    obtain ⟨rfl, ht⟩ := ht
    exact ⟨rfl, ht⟩

end

/-- The operation whose body ended so, its results written. -/
theorem FailedStart.ended {i : Instr} {tok : Event} {b a : Bool} {s u : State} (h : FailedStart tok b (begun i s) a u)
    (rd : Option Byte) : (endOp { u with ok := some a, rd := rd }).log = s.log ++ [tok, if b then .addrNak else .startFail] ∧
      (endOp { u with ok := some a, rd := rd }).ok = some false ∧
      ∀ c, (endOp { u with ok := some a, rd := rd }).mem.read c = s.mem.read c := by
  obtain ⟨rfl, hl, hm⟩ := h
  obtain ⟨inp, hi⟩ := begun_eq i s
  rw [hi] at hl hm
  exact ⟨hl, rfl, fun c => congrArg (fun m => Memory.read m c) hm⟩

/-- Settles O27: the first start of the operation fails, and nothing else of its body runs. -/
theorem compositesFailClosed : Obligations.CompositesFailClosed := by
  intro i d dir s t b cs hi hc hb h hr
  have hs : (callStart d dir (begun i s)).Post (FailedStart (.start d dir) b (begun i s)) fun _ => True := by
    obtain ⟨inp, hi⟩ := begun_eq i s
    exact bodyStart_fails _ d dir (by rw [hi]; exact hc) (by rw [hi]; exact hb)
  rcases hi with ⟨n, ss, rfl, rfl⟩ | ⟨n, ss, rfl, rfl⟩ | ⟨r, v, rfl, rfl⟩ | ⟨r, n, rfl, rfl⟩ | ⟨r, rfl, rfl⟩ | ⟨r, n, rfl, rfl⟩
  · obtain ⟨a, u, hu, rfl⟩ := exec_writeBytes_returned hr h
    exact (hs.onSuccess_failed _ |>.of_done hu).ended u.rd
  · obtain ⟨-, a, u, hu, rfl⟩ := exec_readBytes_returned hr h
    exact (hs.onSuccess_failed _ |>.of_done hu).ended u.rd
  · obtain ⟨a, u, hu, rfl⟩ := exec_writeRegister_returned hr h
    exact (hs.onSuccess_failed _ |>.of_done hu).ended u.rd
  · obtain ⟨a, u, hu, rfl⟩ := exec_writeRegisterMulti_returned hr h
    exact (hs.onSuccess_failed _ |>.of_done hu).ended u.rd
  · obtain ⟨a, u, hu, rfl⟩ := exec_readRegister_returned hr h
    exact ((hs.onSuccess_failed _).onSuccess_failed _).bodyReadRegister_failed |>.of_done hu |>.ended a
  · obtain ⟨-, a, u, hu, rfl⟩ := exec_readRegisterMulti_returned hr h
    exact (((hs.onSuccess_failed _).onSuccess_failed _).onSuccess_failed _ |>.of_done hu).ended u.rd

end Sys2Proof.Machine
end

section
/-! The buffer and register reads and the scan over every environment: what each has logged and stored where it returns. -/

namespace Sys2Proof.Machine

/-! ### Bytes read into the buffer -/

/-- Bytes `vs` were read with ACK and stored from `a` on. -/
def ReadInto (a : Nat) (vs : List Byte) (s t : State) : Prop :=
  t.log = s.log ++ ackedReads vs ∧ t.mem = s.mem.writeAll a vs ∧ t.owned = s.owned

theorem readLoop_post (buf : BufRef) (k i : Nat) (s : State) :
    (readLoop buf k i s).Post (fun _ t => ∃ vs, vs.length = k ∧ ReadInto (buf.addr i) vs s t) fun _ => True := by
  induction k generalizing i s with
  | zero => exact ⟨[], rfl, (List.append_nil _).symm, rfl, rfl⟩
  | succ k ih =>
    refine ((bodyRead_post true s).and (closed_mem.bodyRead true s)).bind (fun _ _ => trivial) ?_
    rintro v t ⟨⟨hl, -, ho, -⟩, hm, -⟩
    refine (ih (i + 1) (memWrite buf i v t)).imp ?_ fun _ h => h
    rintro _ u ⟨vs, hk, hul, hum, huo⟩
    rw [memWrite_eq] at hul hum huo
    refine ⟨v :: vs, by simp [hk], ?_, ?_, huo.trans ho⟩
    · rw [hul, storeByte_log, hl]
      simp [ackedReads]
    · rw [hum, storeByte_mem, hm]
      rfl

/-- The read phase of `n` bytes: `vs` read, all but the last with ACK, and stored from the start of the buffer. -/
theorem readPhase_post (buf : BufRef) {n : Nat} (hn : 0 < n) (s : State) :
    (readPhase buf n s).Post (fun _ t => ∃ vs, vs.length = n ∧ t.log = s.log ++ readEvents vs ∧
      t.mem = s.mem.writeAll (buf.addr 0) vs ∧ t.phase = .rxEnd ∧ t.owned = s.owned) fun _ => True := by
  obtain ⟨k, rfl⟩ : ∃ k, n = k + 1 := ⟨n - 1, by omega⟩
  refine (readLoop_post buf k 0 s).bind (fun _ _ => trivial) ?_
  rintro _ t ⟨vs, hk, hl, hm, ho⟩
  refine ((bodyRead_post false t).and (closed_mem.bodyRead false t)).bind (fun _ _ => trivial) ?_
  rintro v u ⟨⟨hul, hup, huo, -⟩, hum, -⟩
  refine ⟨vs ++ [v], by simp [hk], ?_, ?_, hup, huo.trans ho⟩
  · show u.log = _
    rw [hul, hl, readEvents_append, List.append_assoc]
    rfl
  · show u.mem.write (buf.addr k) v = _
    rw [hum, hm, Memory.writeAll_append, hk]
    simp [Memory.writeAll, BufRef.addr]

/-! ### The write-then-read idiom -/

/-- What the write-then-read idiom comes to up to its read phase (R91, R92), by its result: every step of it succeeded, or
one failed, with no `stop` and no second address acknowledged. -/
inductive SelectEnd (d : Addr7) (r : Byte) (s t : State) : Bool → Prop where
  | ready (log : t.log = s.log ++ [Event.start d .W, .addrAck, .write r, .ack, .rstart d .R, .addrAck]) :
    SelectEnd d r s t true
  | failed (es : List Event) (log : t.log = s.log ++ es) (noStop : .stop ∉ es)
    (noRead : ¬[Event.rstart d .R, .addrAck] <:+: es) (failedAt : FailedAt es t) : SelectEnd d r s t false

/-- The first start and the byte of the register. -/
theorem writeSelected_post (d : Addr7) (r : Byte) (s : State) :
    (onSuccess (callStart d .W s) (bodyWriteDevice r)).Post (fun a t => if a then
      t.log = s.log ++ [Event.start d .W, .addrAck, .write r, .ack] else SelectEnd d r s t false) fun _ => True := by
  refine Run.Post.onSuccess ((bodyStart_post (.start d .W) d .W s).imp (fun _ _ h => h) fun _ _ => trivial) ?_ ?_
  · rintro t (⟨hl, hp, ho⟩ | _)
    refine (bodyWriteDevice_post r t).imp ?_ fun _ _ => trivial
    rintro (_ | _) u ⟨hul, hup, huo⟩
    · exact .failed [.start d .W, .addrAck, .write r, .nak] (by simp [hul, hl]) (by simp) (by simp [List.infix_cons_iff])
        (.inr (.inr ⟨rfl, hup, huo.trans ho⟩))
    · simp [hul, hl]
  · rintro t (_ | ⟨hl, hp, ho⟩ | ⟨hl, hp⟩)
    · exact .failed [.start d .W, .addrNak] hl (by simp) (by simp [List.infix_cons_iff]) (.inr (.inl ⟨rfl, hp, ho⟩))
    · exact .failed [.start d .W, .startFail] hl (by simp) (by simp [List.infix_cons_iff]) (.inl ⟨rfl, hp⟩)

theorem selectRegister_post (d : Addr7) (r : Byte) (s : State) :
    (selectRegister d r s).Post (fun a t => SelectEnd d r s t a) fun _ => True := by
  refine Run.Post.onSuccess (writeSelected_post d r s) (fun t hl => ?_) fun t h => h
  replace hl : t.log = s.log ++ [Event.start d .W, .addrAck, .write r, .ack] := hl
  refine (bodyStart_post (.rstart d .R) d .R t).imp ?_ fun _ _ => trivial
  rintro _ u (⟨hul, hup, huo⟩ | ⟨hul, hup, huo⟩ | ⟨hul, hup⟩)
  · exact .ready (by simp [hul, hl])
  · exact .failed [.start d .W, .addrAck, .write r, .ack, .rstart d .R, .addrNak] (by simp [hul, hl]) (by simp)
      (by simp [List.infix_cons_iff]) (.inr (.inl ⟨rfl, hup, huo⟩))
  · exact .failed [.start d .W, .addrAck, .write r, .ack, .rstart d .R, .startFail] (by simp [hul, hl]) (by simp)
      (by simp [List.infix_cons_iff]) (.inl ⟨rfl, hup⟩)

/-! ### The register reads -/

/-- A `readRegister` that returned: every step of it succeeded and the byte read is its result, or a step failed. -/
theorem bodyReadRegister_post (d : Addr7) (r : Byte) (s : State) :
    (bodyReadRegister d r s).Post (fun a t => (∃ v, a = some v ∧ t.log = s.log ++
        [Event.start d .W, .addrAck, .write r, .ack, .rstart d .R, .addrAck, .read v, .nak, .stop]) ∨
      (a = none ∧ SelectEnd d r s t false)) fun _ => True := by
  refine (selectRegister_post d r s).bind (fun _ h => h) ?_
  rintro (_ | _) t ht
  · exact .inr ⟨rfl, ht⟩
  · obtain ⟨hl⟩ := ht
    refine (bodyRead_post false t).bind (fun _ _ => trivial) ?_
    rintro v u ⟨hul, -⟩
    refine (bodyStop_post u).bind (fun _ _ => trivial) ?_
    rintro _ x ⟨hxl, -⟩
    exact .inl ⟨v, rfl, by simp [hxl, hul, hl]⟩

/-- A `readRegisterMulti` that returned: its bytes were read and stored and the bus released, or a step failed before. -/
theorem bodyReadRegisterMulti_post (d : Addr7) (r : Byte) {n : Nat} (hn : 0 < n) (s : State) :
    (bodyReadRegisterMulti d r n s).Post (fun a t => (a = true ∧ ∃ vs, vs.length = n ∧ t.log = s.log ++
        [Event.start d .W, .addrAck, .write r, .ack, .rstart d .R, .addrAck] ++ readEvents vs ++ [Event.stop] ∧
        t.mem = s.mem.writeAll (s.buf.addr 0) vs) ∨
      (a = false ∧ t.mem = s.mem ∧ SelectEnd d r s t false)) fun _ => True := by
  refine ((selectRegister_post d r s).and (closed_mem.selectRegister d r s)).bind (fun _ _ => trivial) ?_
  rintro (_ | _) t ⟨ht, hm, -⟩
  · exact .inr ⟨rfl, hm, ht⟩
  · obtain ⟨hl⟩ := ht
    refine (readPhase_post s.buf hn t).bind (fun _ _ => trivial) ?_
    rintro _ u ⟨vs, hk, hul, hum, -⟩
    refine ((bodyStop_post u).and (closed_mem.bodyStop u)).bind (fun _ _ => trivial) ?_
    rintro _ x ⟨⟨hxl, -⟩, hxm, -⟩
    exact .inl ⟨rfl, vs, hk, by rw [hxl, hul, hl], by rw [hxm, hum, hm]⟩

/-- A `readRegister` that returned, as an operation. -/
theorem exec_readRegister_ended {d : Addr7} {r : Byte} {s t : State} (h : exec (.readRegister d r) s = .next t)
    (hr : Returned t) : (t.ok = some true ∧ ∃ v, t.rd = some v ∧ t.log = s.log ++
        [Event.start d .W, .addrAck, .write r, .ack, .rstart d .R, .addrAck, .read v, .nak, .stop]) ∨
      (t.ok = some false ∧ t.rd = none ∧ SelectEnd d r s t false) := by
  obtain ⟨a, u, hu, rfl⟩ := exec_readRegister_returned hr h
  rcases (bodyReadRegister_post d r _).of_done hu with ⟨v, rfl, hl⟩ | ⟨rfl, hs⟩
  · exact .inl ⟨rfl, v, rfl, hl⟩
  · cases hs with
    | failed es hl h1 h2 h3 => exact .inr ⟨rfl, rfl, .failed es hl h1 h2 h3⟩

/-- A `readRegisterMulti` that returned, as an operation. -/
theorem exec_readRegisterMulti_ended {d : Addr7} {r : Byte} {n : Nat} {s t : State}
    (h : exec (.readRegisterMulti d r n) s = .next t) (hr : Returned t) :
    (t.ok = some true ∧ ∃ vs, vs.length = n ∧ t.log = s.log ++
        [Event.start d .W, .addrAck, .write r, .ack, .rstart d .R, .addrAck] ++ readEvents vs ++ [Event.stop] ∧
        t.mem = s.mem.writeAll (s.buf.addr 0) vs) ∨
      (t.ok = some false ∧ t.mem = s.mem ∧ SelectEnd d r s t false) := by
  obtain ⟨hn, a, u, hu, rfl⟩ := exec_readRegisterMulti_returned hr h
  rcases (bodyReadRegisterMulti_post d r hn _).of_done hu with ⟨rfl, vs, hk, hl, hm⟩ | ⟨rfl, hm, hs⟩
  · exact .inl ⟨rfl, vs, hk, hl, hm⟩
  · cases hs with
    | failed es hl h1 h2 h3 => exact .inr ⟨rfl, hm, .failed es hl h1 h2 h3⟩

/-- What a failed idiom has logged since. -/
theorem SelectEnd.of_failed {d : Addr7} {r : Byte} {s t : State} {es : List Event} (h : SelectEnd d r s t false)
    (hl : t.log = s.log ++ es) : .stop ∉ es ∧ ¬[Event.rstart d .R, .addrAck] <:+: es ∧ FailedAt es t := by
  cases h with
  | failed es' hl' h1 h2 h3 =>
    obtain rfl := List.append_cancel_left (hl.symm.trans hl')
    exact ⟨h1, h2, h3⟩

/-- Settles O33: of the two ends of a `readRegister` it is the failed one. -/
theorem readRegisterFailsWithoutStop : Obligations.ReadRegisterFailsWithoutStop := by
  intro d r s t es h hr hl hok
  rcases exec_readRegister_ended h hr with ⟨hok', -⟩ | ⟨-, hrd, hs⟩
  · simp [hok] at hok'
  · obtain ⟨hstop, -, hat⟩ := hs.of_failed hl
    exact ⟨hrd, hstop, hat⟩

/-- Settles O34: the log of each of the two ends of a `readRegister`. -/
theorem readRegisterWriteThenRead : Obligations.ReadRegisterWriteThenRead := by
  intro d r s t h hr
  rcases exec_readRegister_ended h hr with ⟨-, v, hrd, hl⟩ | ⟨hok, -, hs⟩
  · refine ⟨fun _ => ⟨v, hrd, hl⟩, fun es hes _ => ?_⟩
    obtain rfl := List.append_cancel_left (hes.symm.trans hl)
    rfl
  · exact ⟨fun hok' => by simp [hok] at hok', fun es hes hin => absurd hin (hs.of_failed hes).2.1⟩

/-- Settles O36: of the two ends of a `readRegisterMulti` it is the failed one. -/
theorem readRegisterMultiFailsWithoutStop : Obligations.ReadRegisterMultiFailsWithoutStop := by
  intro d r n s t es h hr hl hok
  rcases exec_readRegisterMulti_ended h hr with ⟨hok', -⟩ | ⟨-, hm, hs⟩
  · simp [hok] at hok'
  · obtain ⟨hstop, -, hat⟩ := hs.of_failed hl
    exact ⟨hstop, fun a => by rw [hm], hat⟩

/-! ### `readBytes` -/

theorem stopIf_post (ss : Bool) (s : State) :
    (stopIf ss s).Post (fun _ t => t.log = s.log ++ stopEvents ss ∧ t.mem = s.mem ∧
      (ss = false → t.phase = s.phase ∧ t.owned = s.owned)) fun _ => True := by
  cases ss with
  | false => exact ⟨(List.append_nil _).symm, rfl, fun _ => ⟨rfl, rfl⟩⟩
  | true =>
    refine ((bodyStop_post s).and (closed_mem.bodyStop s)).imp ?_ fun _ _ => trivial
    rintro _ t ⟨⟨hl, -⟩, hm, -⟩
    exact ⟨hl, hm, by simp⟩

/-- What a composite whose only start failed has logged: no acknowledged address. -/
def StartOnly (tok : Event) (s t : State) : Prop :=
  t.log = s.log ++ [tok, .addrNak] ∨ t.log = s.log ++ [tok, .startFail]

theorem StartEnd.startOnly {tok : Event} {dir : Dir} {s t : State} (h : StartEnd tok dir s t false) : StartOnly tok s t := by
  cases h with
  | naked hl _ _ => exact .inl hl
  | failed hl _ => exact .inr hl

theorem bodyReadBytes_post (d : Addr7) {n : Nat} (hn : 0 < n) (ss : Bool) (s : State) :
    (bodyReadBytes d n ss s).Post (fun a t => (a = true ∧ (ss = false → t.phase = .rxEnd ∧ t.owned = true) ∧
        ∃ vs, vs.length = n ∧ t.log = s.log ++ [Event.start d .R, .addrAck] ++ readEvents vs ++ stopEvents ss ∧
          t.mem = s.mem.writeAll (s.buf.addr 0) vs) ∨
      (a = false ∧ StartOnly (.start d .R) s t)) fun _ => True := by
  refine ((bodyStart_post (.start d .R) d .R s).and (closed_mem.bodyStart _ d .R s)).bind (fun _ _ => trivial) ?_
  rintro (_ | _) t ⟨ht, hm, -⟩
  · exact .inr ⟨rfl, ht.startOnly⟩
  · obtain ⟨hl, -, ho⟩ := ht
    refine (readPhase_post s.buf hn t).bind (fun _ _ => trivial) ?_
    rintro _ u ⟨vs, hk, hul, hum, hup, huo⟩
    refine (stopIf_post ss u).bind (fun _ _ => trivial) ?_
    rintro _ x ⟨hxl, hxm, hx⟩
    refine .inl ⟨rfl, fun h => ?_, vs, hk, by rw [hxl, hul, hl], by rw [hxm, hum, hm]⟩
    obtain ⟨hxp, hxo⟩ := hx h
    exact ⟨hxp.trans hup, hxo.trans (huo.trans ho)⟩

/-- Settles O37: the end in which every step succeeded, of each of the three reads. -/
theorem lastByteReadWithNak : Obligations.LastByteReadWithNak := by
  refine ⟨fun d n ss s t hw h hr hok => ?_, fun d r n s t hw h hr hok => ?_, fun d r s t h hr hok => ?_⟩
  · obtain ⟨hn, a, u, hu, rfl⟩ := exec_readBytes_returned hr h
    rcases (bodyReadBytes_post d hn ss _).of_done hu with ⟨-, -, vs, hk, hl, hm⟩ | ⟨rfl, -⟩
    · exact ⟨vs, hk, hk ▸ bufferBytes_writeAll (t := u) hw hm, hl⟩
    · cases hok
  · rcases exec_readRegisterMulti_ended h hr with ⟨-, vs, hk, hl, hm⟩ | ⟨hok', -⟩
    · exact ⟨vs, hk, hk ▸ bufferBytes_writeAll hw hm, hl⟩
    · simp [hok] at hok'
  · rcases exec_readRegister_ended h hr with ⟨-, v, hrd, hl⟩ | ⟨hok', -⟩
    · exact ⟨v, hrd, by simp [hl, readEvents]⟩
    · simp [hok] at hok'

end Sys2Proof.Machine
end

section
/-! The scan over every environment, and a chained operation followed by another. -/

namespace Sys2Proof.Machine

/-! ### The scan -/

/-- The events `es` are pieces of a scan of `k` addresses from `a` on, in order. -/
def ScanPieces (k a : Nat) (es : List Event) : Prop :=
  ∃ pieces : List (List Event), pieces.length = k ∧ es = pieces.flatten ∧
    ∀ (j : Nat) (p : List Event), pieces[j]? = some p → ScanPiece (BitVec.ofNat 7 (a + j)) p

theorem scanPieces_zero (a : Nat) : ScanPieces 0 a [] :=
  ⟨[], rfl, rfl, fun j p h => by simp at h⟩

theorem ScanPieces.cons {k a : Nat} {p es : List Event} (hp : ScanPiece (BitVec.ofNat 7 a) p) (h : ScanPieces k (a + 1) es) :
    ScanPieces (k + 1) a (p ++ es) := by
  obtain ⟨pieces, hk, rfl, hj⟩ := h
  refine ⟨p :: pieces, by simp [hk], rfl, fun j q hq => ?_⟩
  cases j with
  | zero => cases hq; exact hp
  | succ j => rw [show a + (j + 1) = a + 1 + j by omega]; exact hj j q hq

theorem scanFound_post (a : Addr7) (s : State) :
    (scanFound a s).Post (fun _ t => ∃ v, t.log = s.log ++ [Event.read v, .nak, .stop, .found a]) fun _ => True := by
  refine (bodyRead_post false s).bind (fun _ _ => trivial) ?_
  rintro v t ⟨hl, -⟩
  refine (bodyStop_post t).bind (fun _ _ => trivial) ?_
  rintro _ u ⟨hul, -⟩
  obtain ⟨m, r, hc⟩ := callbackActs_eq a (logEvents [.found a] u).cb (logEvents [.found a] u)
  refine ⟨v, ?_⟩
  rw [runCallback, hc]
  simp [hul, hl]

/-- One attempt. -/
theorem scanAttempt_post (a : Addr7) (s : State) :
    ((callStart a .R s).bind fun ok t => if ok then scanFound a t else .done () t).Post
      (fun _ t => ∃ es, t.log = s.log ++ es ∧ ScanPiece a es) fun _ => True := by
  refine (bodyStart_post (.start a .R) a .R s).bind (fun _ _ => trivial) ?_
  rintro _ t (⟨hl, -, -⟩ | ⟨hl, -, -⟩ | ⟨hl, -⟩)
  · refine (scanFound_post a t).imp ?_ fun _ h => h
    rintro _ u ⟨v, hul⟩
    exact ⟨[.start a .R, .addrAck, .read v, .nak, .stop, .found a], by simp [hul, hl], .inr (.inr ⟨v, rfl⟩)⟩
  · exact ⟨_, hl, .inr (.inl rfl)⟩
  · exact ⟨_, hl, .inl rfl⟩

theorem Run.bind_assoc {α β γ : Type} (r : Run α) (f : α → State → Run β) (g : β → State → Run γ) :
    (r.bind f).bind g = r.bind fun a s => (f a s).bind g := by
  cases r <;> rfl

theorem scanLoop_post (k a : Nat) (s : State) :
    (scanLoop k a s).Post (fun _ t => ∃ es, t.log = s.log ++ es ∧ ScanPieces k a es) fun _ => True := by
  induction k generalizing a s with
  | zero => exact ⟨[], (List.append_nil _).symm, scanPieces_zero a⟩
  | succ k ih =>
    rw [scanLoop, ← Run.bind_assoc]
    refine (scanAttempt_post _ s).bind (fun _ h => h) ?_
    rintro _ t ⟨p, hl, hp⟩
    refine (ih (a + 1) t).imp ?_ fun _ h => h
    rintro _ u ⟨es, hul, hes⟩
    exact ⟨p ++ es, by rw [hul, hl, List.append_assoc], hes.cons hp⟩

/-- Settles O39: each round of the loop logs one piece. -/
theorem scanBusTriesEveryAddress : Obligations.ScanBusTriesEveryAddress := by
  intro s t h hr
  obtain ⟨u, hu, rfl⟩ := exec_scanBus_returned hr h
  obtain ⟨_, hl, pieces, hk, rfl, hj⟩ := (scanLoop_post 126 1 _).of_done hu
  exact ⟨pieces, hk, hl, fun k es hes => by rw [Nat.add_comm]; exact hj k es hes⟩

/-! ### A chained operation -/

theorem writeLoop_post (cont : Bool) (buf : BufRef) (k i : Nat) {s : State} (hp : s.phase = .tx) :
    (writeLoop cont buf k i s).Post (fun _ t => t.phase = .tx ∧ t.owned = s.owned) fun _ => True := by
  induction k generalizing i s with
  | zero => exact ⟨hp, rfl⟩
  | succ k ih =>
    refine (bodyWriteDevice_post _ s).bind (fun _ _ => trivial) ?_
    rintro a t ⟨-, htp, hto⟩
    split
    · refine (ih (i + 1) htp).bind (fun _ h => h) ?_
      rintro _ u ⟨hup, huo⟩
      exact ⟨hup, huo.trans hto⟩
    · exact ⟨htp, hto⟩

theorem bodyWriteBytes_post (d : Addr7) (n : Nat) (s : State) :
    (bodyWriteBytes d n false s).Post (fun _ t => (t.phase = .tx ∧ t.owned = true) ∨ StartOnly (.start d .W) s t)
      fun _ => True := by
  refine (bodyStart_post (.start d .W) d .W s).bind (fun _ _ => trivial) ?_
  rintro (_ | _) t ht
  · exact .inr ht.startOnly
  · obtain ⟨-, hp, ho⟩ := ht
    refine (writeLoop_post false s.buf n 0 hp).bind (fun _ h => h) ?_
    rintro _ u ⟨hup, huo⟩
    exact .inl ⟨hup, huo.trans ho⟩

/-- An acknowledged address is no failed start. -/
theorem StartOnly.not_acked {tok : Event} {s t : State} (h : StartOnly tok s t) :
    ¬[tok, .addrAck] <+: t.log.drop s.log.length := by
  rcases h with h | h <;> simp [h]

/-- A chained operation that returned holds the bus where its address was acknowledged. -/
theorem chained_ended {i : Instr} {p : Phase} {d : Addr7} {n : Nat} {s t : State} {e : Event}
    (hi : (i = .writeBytes d n false ∧ p = .tx ∧ e = .start d .W) ∨ (i = .readBytes d n false ∧ p = .rxEnd ∧ e = .start d .R))
    (h : exec i s = .next t) (hr : Returned t) (ha : [e, .addrAck] <+: t.log.drop s.log.length) :
    t.owned = true ∧ t.phase = p := by
  rcases hi with ⟨rfl, rfl, rfl⟩ | ⟨rfl, rfl, rfl⟩
  · obtain ⟨a, u, hu, rfl⟩ := exec_writeBytes_returned hr h
    rcases (bodyWriteBytes_post d n _).of_done hu with ⟨hp, ho⟩ | hs
    · exact ⟨ho, hp⟩
    · exact absurd ha (StartOnly.not_acked (t := endOp (writeOk a u)) hs)
  · obtain ⟨hn, a, u, hu, rfl⟩ := exec_readBytes_returned hr h
    rcases (bodyReadBytes_post d hn false _).of_done hu with ⟨-, hx, -⟩ | ⟨-, hs⟩
    · obtain ⟨hp, ho⟩ := hx rfl
      exact ⟨ho, hp⟩
    · exact absurd ha (StartOnly.not_acked (t := endOp (writeOk a u)) hs)

/-! ### What follows an operation's first start -/

theorem complete_grows {α : Type} {write : α → State → State} {r : Run α} {u : State} (h : r.Within Grows Grows u)
    (hw : ∀ a t, (write a t).log = t.log ∧ (write a t).wire = t.wire) : Grows u (complete write r) :=
  complete_cases h (fun a t ht => closed_grows.trans ht (.of_eq (hw a t).1 (hw a t).2)) fun _ h => h

/-- What a scan does for an address that answers only adds to the log and the wire. -/
theorem scanFound_grows (a : Addr7) (s : State) : (scanFound a s).Within Grows Grows s :=
  closed_grows.seq (closed_grows.bodyRead false s) fun _ t _ => closed_grows.seq (closed_grows.bodyStop t) fun _ u _ =>
    closed_grows.trans (closed_grows.log _ u) (closed_grows.callbackActs (fun x _ => grows_ofUpdates.act x.2) a _)

theorem scanRest_grows (k a : Nat) (ok : Bool) (s : State) :
    ((if ok then scanFound (BitVec.ofNat 7 a) s else .done () s).bind fun _ t => scanLoop k (a + 1) t).Within Grows Grows s := by
  induction k generalizing a ok s with
  | zero =>
    cases ok with
    | false => exact closed_grows.refl s
    | true => exact closed_grows.seq (scanFound_grows _ s) fun _ t _ => closed_grows.refl t
  | succ k ih =>
    have hloop : ∀ t, (scanLoop (k + 1) (a + 1) t).Within Grows Grows t := fun t =>
      closed_grows.seq (closed_grows.bodyStart _ _ _ t) fun ok u _ => ih (a + 1) ok u
    cases ok with
    | false => exact hloop s
    | true => exact closed_grows.seq (scanFound_grows _ s) fun _ t _ => hloop t

/-- An operation with a first start runs it, and what it does after it only adds to the log and the wire. -/
theorem ran_grows_after_start {j : Instr} {d : Addr7} {dir : Dir} (hj : firstStart j = some (d, dir))
    (hz : readsNoByte j = false) (s : State) :
    ∃ tok : Event, ∀ u, (bodyStart tok d dir (begun j s)).Within Grows Grows u → Grows u (ran j s) := by
  have C := closed_grows
  cases j with
  | start _ _ | repeatStart _ _ => cases hj; exact ⟨_, fun u hu => complete_grows hu fun _ _ => ⟨rfl, rfl⟩⟩
  | writeBytes _ n ss =>
    cases hj
    refine ⟨_, fun u hu => complete_grows (C.onSuccess hu fun t _ => ?_) fun _ _ => ⟨rfl, rfl⟩⟩
    exact C.seq (C.writeLoop _ _ _ _ t) fun _ v _ => C.seq (C.stopIf ss v) fun _ w _ => C.refl w
  | readBytes _ n ss =>
    cases hj
    refine ⟨_, fun u hu => complete_grows (C.onSuccess hu fun t _ => ?_) fun _ _ => ⟨rfl, rfl⟩⟩
    exact C.seq (C.readPhase (pos_of_readsNoByte hz) (fun _ _ => grows_ofUpdates.store _) t) fun _ v _ =>
      C.seq (C.stopIf ss v) fun _ w _ => C.refl w
  | writeRegister _ r v =>
    cases hj
    refine ⟨_, fun u hu => complete_grows (C.onSuccess hu fun t _ => ?_) fun _ _ => ⟨rfl, rfl⟩⟩
    exact C.seq (C.onSuccess (C.bodyWriteDevice r t) fun w _ => C.bodyWriteDevice v w) fun a w _ => C.stopThen a w
  | writeRegisterMulti _ r n =>
    cases hj
    refine ⟨_, fun u hu => complete_grows (C.onSuccess hu fun t _ => ?_) fun _ _ => ⟨rfl, rfl⟩⟩
    exact C.seq (C.onSuccess (C.bodyWriteDevice r t) fun w _ => C.writeLoop _ _ _ _ w) fun a w _ => C.stopThen a w
  | readRegister _ r =>
    cases hj
    refine ⟨_, fun u hu => complete_grows (C.seq (C.onSuccess (C.onSuccess hu fun t _ => C.bodyWriteDevice r t) fun t _ =>
      C.bodyStart _ _ _ t) fun a t _ => ?_) fun _ _ => ⟨rfl, rfl⟩⟩
    split
    · exact C.seq (C.bodyRead false t) fun _ v _ => C.seq (C.bodyStop v) fun _ w _ => C.refl w
    · exact C.refl t
  | readRegisterMulti _ r n =>
    cases hj
    refine ⟨_, fun u hu => complete_grows (C.onSuccess (C.onSuccess (C.onSuccess hu fun t _ => C.bodyWriteDevice r t) fun t _ =>
      C.bodyStart _ _ _ t) fun t _ => ?_) fun _ _ => ⟨rfl, rfl⟩⟩
    exact C.seq (C.readPhase (pos_of_readsNoByte hz) (fun _ _ => grows_ofUpdates.store _) t) fun _ v _ => C.stopThen true v
  | scanBus =>
    cases hj
    exact ⟨_, fun u hu => complete_grows (C.seq hu fun ok t _ => scanRest_grows 125 1 ok t) fun _ _ => ⟨rfl, rfl⟩⟩
  | _ => cases hj

/-- Every phase but `Rx` admits an operation with a first start. -/
theorem admitted_of_firstStart {j : Instr} {x : Addr7 × Dir} (hj : firstStart j = some x) {p : Phase} (hp : p ≠ .rx) :
    p ∈ admittingPhases j := by
  cases j with
  | stop | writeDevice _ | readDeviceWithAck | readDeviceWithNak => cases hj
  | _ => exact mem_of_ne_rx hp

/-- Settles O40: the chained operation holds the bus, and the next one's log and wire only grow after its first start. -/
theorem chainedOperationDrivesRepeatedStart : Obligations.ChainedOperationDrivesRepeatedStart := by
  intro i p d n s t e hi h hr ha
  obtain ⟨ho, hp⟩ := chained_ended hi h hr ha
  refine ⟨ho, hp, fun j d' dir' cs as a hj hz hb hc hk hw => ?_⟩
  have hrx : t.phase ≠ .rx := by rcases hi with ⟨-, hi, -⟩ | ⟨-, hi, -⟩ <;> simp [hp, hi]
  refine ⟨ran j t, exec_next hr.2 hr.1 (refusalOf_eq_none.2 ⟨admitted_of_firstStart hj hrx, hz, hb⟩), ?_⟩
  obtain ⟨inp, hbeg⟩ := begun_eq j t
  obtain ⟨tok, hrest⟩ := ran_grows_after_start hj hz t
  obtain ⟨u, hu, -, hx, -⟩ := start_step (s := begun j t) tok d' dir' (by rw [hbeg]; exact hc) (by rw [hbeg]; exact hk)
    (by rw [hbeg]; exact hw)
  have hgrow : Grows u (ran j t) := hrest u (by rw [hu]; exact closed_grows.refl u)
  rw [hbeg] at hx
  rw [show t.wire ++ addressWire true d' dir' a = u.wire by rw [hx, ← ho]]
  exact hgrow.2

end Sys2Proof.Machine
end

section
/-! The TWI peripheral after a primitive that returned: what its status and its data register say (R113 to R117). -/

namespace Sys2Proof.Machine

/-! ### The end of a step -/

theorem twiStatus_twiStepDone (code : Byte) (r : TwiRegs) : twiStatus (twiStepDone code r) = code &&& 0xF8#8 := by
  refine BitVec.eq_of_getLsbD_eq fun i hi => ?_
  interval_cases i <;> simp [twiStatus, twiStepDone, setTwiStatus]

theorem twintSet_twiStepDone (code : Byte) (r : TwiRegs) : twintSet (twiStepDone code r) = true := by
  refine beq_iff_eq.2 (BitVec.eq_of_getLsbD_eq fun i hi => ?_)
  interval_cases i <;> simp [twint, twiStepDone, setTwiStatus]

theorem twsto_twiStopDone (r : TwiRegs) : (twiStopDone r).twcr &&& twsto = 0#8 := by
  rw [twiStopDone, BitVec.and_assoc]
  simp [twsto]

/-- The TWI's last step ended with a status code. -/
def TwiEnded (code : Byte) (t : State) : Prop := twiStatus t.twi = code &&& 0xF8#8 ∧ twintSet t.twi = true

theorem TwiEnded.of_eq {code : Byte} {t : State} {r : TwiRegs} (h : t.twi = twiStepDone code r) : TwiEnded code t := by
  rw [TwiEnded, h]
  exact ⟨twiStatus_twiStepDone code r, twintSet_twiStepDone code r⟩

theorem ackedStep_twi (code : Bool → Why → Byte) (a : Bool) {s : State} (h : s.cfg.backend = .hardwareTwi) :
    ∃ why, (ackedStep code a s).twi = twiStepDone (code a why) s.twi := by
  cases a with
  | true => exact ⟨.nak, by simp [ackedStep, h]⟩
  | false => exact ⟨nextWhy s, by simp [ackedStep, h]⟩

/-! ### The primitives -/

section
variable {s : State} (h : s.cfg.backend = .hardwareTwi)
include h

theorem addressPhase_twi (d : Addr7) (dir : Dir) :
    (addressPhase d dir s).Post (fun a t => ∃ why, TwiEnded (addressCode dir a why) t) fun _ => True := by
  refine (wait_post _).bind (fun _ _ => trivial) ?_
  rintro _ _ rfl
  unfold addressDone
  dsimp only
  split
  · next ha =>
    rw [ha]
    exact (ackedStep_twi (addressCode dir) true (by simpa using h)).imp fun _ => .of_eq
  · next ha =>
    rw [Bool.eq_false_iff.2 ha]
    exact (ackedStep_twi (addressCode dir) false (by simpa using h)).imp fun _ => .of_eq

theorem startFailed_twi : ∃ o why, (startFailed s).twi = twiStepDone (startFailCode o why) s.twi :=
  ⟨_, _, by simp [startFailed, h]; rfl⟩

theorem bodyStart_twi (tok : Event) (d : Addr7) (dir : Dir) :
    (bodyStart tok d dir s).Post (fun a t => (∃ why, TwiEnded (addressCode dir a why) t) ∨
      (a = false ∧ ∃ o why, TwiEnded (startFailCode o why) t)) fun _ => True := by
  refine (wait_post _).bind (fun _ _ => trivial) ?_
  rintro _ _ rfl
  split
  · exact (addressPhase_twi (by simpa [startEstablished] using h) d dir).imp (fun _ _ ht => .inl ht) fun _ h => h
  · exact .inr ⟨rfl, (startFailed_twi (by simpa using h)).imp fun _ => .imp fun _ => .of_eq⟩

theorem dataDone_twi (b : Byte) :
    (dataDone b s).Post (fun a t => ∃ why, TwiEnded (dataCode a why) t) fun _ => True := by
  obtain ⟨why, hw⟩ := ackedStep_twi dataCode (nextAck .data b s) (s := popAck s) h
  rw [dataDone, Run.post_done]
  refine ⟨why, .of_eq (r := (popAck s).twi) ?_⟩
  rw [setPhase_twi, setCause_twi, logEvents_twi, emit_twi, hw]

theorem bodyWriteDevice_twi (b : Byte) :
    (bodyWriteDevice b s).Post (fun a t => ∃ why, TwiEnded (dataCode a why) t) fun _ => True := by
  refine (wait_post _).bind (fun _ _ => trivial) ?_
  rintro _ t rfl
  exact dataDone_twi (by simpa using h) b

theorem bodyRead_twi (ack : Bool) :
    (bodyRead ack s).Post (fun v t => TwiEnded (readCode ack) t ∧ t.twi.twdr = v) fun _ => True := by
  refine (wait_post _).bind (fun _ _ => trivial) ?_
  rintro _ _ rfl
  have hr : ∀ v r, twiStatus (twiReadDone v ack r) = readCode ack &&& 0xF8#8 ∧ twintSet (twiReadDone v ack r) = true ∧
      (twiReadDone v ack r).twdr = v := fun v r => ⟨twiStatus_twiStepDone _ _, twintSet_twiStepDone _ _, rfl⟩
  simp [TwiEnded, h, hr]

theorem bodyStop_twi : (bodyStop s).Post (fun _ t => t.twi.twcr &&& twsto = 0#8) fun _ => True := by
  refine (wait_post _).bind (fun _ _ => trivial) ?_
  rintro _ _ rfl
  simp [h, twsto_twiStopDone]

end

/-! ### The codes tell the outcome -/

theorem addressCode_status (dir : Dir) (a : Bool) (why : Why) :
    addressCode dir a why &&& 0xF8#8 = 0x18#8 ∨ addressCode dir a why &&& 0xF8#8 = 0x40#8 ↔ a = true := by
  cases dir <;> cases a <;> cases why <;> decide

theorem startFailCode_status (o : Bool) (why : Why) :
    ¬(startFailCode o why &&& 0xF8#8 = 0x18#8 ∨ startFailCode o why &&& 0xF8#8 = 0x40#8) := by
  cases o <;> cases why <;> decide

theorem dataCode_status (a : Bool) (why : Why) : dataCode a why &&& 0xF8#8 = 0x28#8 ↔ a = true := by
  cases a <;> cases why <;> decide

/-- A start that returned, by its status. -/
theorem bodyStart_status {tok : Event} {d : Addr7} {dir : Dir} {s u : State} {a : Bool} (h : s.cfg.backend = .hardwareTwi)
    (hu : bodyStart tok d dir s = .done a u) :
    (a = true ↔ twiStatus u.twi = 0x18#8 ∨ twiStatus u.twi = 0x40#8) ∧ twintSet u.twi = true := by
  rcases (bodyStart_twi h tok d dir).of_done hu with ⟨why, hs, ht⟩ | ⟨rfl, o, why, hs, ht⟩ <;> rw [hs]
  · exact ⟨(addressCode_status dir a why).symm, ht⟩
  · exact ⟨iff_of_false (by simp) (startFailCode_status o why), ht⟩

/-- A read primitive that returned. -/
theorem bodyRead_status {ack : Bool} {s u : State} {v : Byte} (h : s.cfg.backend = .hardwareTwi)
    (hu : bodyRead ack s = .done v u) :
    twiStatus u.twi = readCode ack ∧ some v = some u.twi.twdr ∧ twintSet u.twi = true := by
  obtain ⟨⟨hs, ht⟩, hv⟩ := (bodyRead_twi h ack).of_done hu
  refine ⟨hs.trans ?_, by rw [hv], ht⟩
  cases ack <;> decide

/-- Settles O55: each primitive ends with a step of the TWI whose code its result chose. -/
theorem twiStatusSaysOutcome : Obligations.TwiStatusSaysOutcome := by
  intro i s t hb h hr
  obtain ⟨-, -, -, ht⟩ := exec_ran h
  have hb : (begun i s).cfg.backend = .hardwareTwi := by
    obtain ⟨inp, hi⟩ := begun_eq i s
    rw [hi]
    exact hb
  refine ⟨?_, ?_, ?_, ?_, ?_⟩
  · rintro ⟨d, dir, rfl | rfl⟩
    all_goals
      obtain ⟨a, u, hu, rfl⟩ := returned_done (closed_ends.bodyStart _ d dir _) rfl ht hr
      obtain ⟨hs, hi⟩ := bodyStart_status hb hu
      exact ⟨Option.some_inj.trans hs, hi⟩
  · rintro ⟨b, rfl⟩
    obtain ⟨a, u, hu, rfl⟩ := returned_done (closed_ends.bodyWriteDevice b _) rfl ht hr
    obtain ⟨why, hs, hi⟩ := (bodyWriteDevice_twi hb b).of_done hu
    exact ⟨Option.some_inj.trans ((dataCode_status a why).symm.trans (by rw [← hs]; rfl)), hi⟩
  · rintro rfl
    obtain ⟨v, u, hu, rfl⟩ := returned_done (closed_ends.bodyRead true _) rfl ht hr
    exact bodyRead_status hb hu
  · rintro rfl
    obtain ⟨v, u, hu, rfl⟩ := returned_done (closed_ends.bodyRead false _) rfl ht hr
    exact bodyRead_status hb hu
  · rintro rfl
    obtain ⟨_, u, hu, rfl⟩ := returned_done (closed_ends.bodyStop _) rfl ht hr
    have hx := (bodyStop_twi hb).of_done hu
    exact hx

end Sys2Proof.Machine
end

section
/-! The USI peripheral: a write of its control register by its fields (R123, R124), and what its transfer loop moves
(R125). -/

namespace Sys2Proof.Machine

/-! ### The fields of `USICR` -/

theorem and_usitc_beq (v : Byte) : (v &&& usitc == usitc) = v.getLsbD 0 := by
  rw [Bool.eq_iff_iff, beq_iff_eq]
  constructor
  · intro h
    simpa [usitc] using congrArg (fun y : Byte => y.getLsbD 0) h
  · intro h
    refine BitVec.eq_of_getLsbD_eq fun i hi => ?_
    interval_cases i <;> simp_all [usitc]

theorem setUsicr_eq {v : Byte} (h : v.getLsbD 0 = false) (u : UsiRegs) : setUsicr v u = { u with usicr := v } := by
  have hv : v &&& ~~~usitc = v := by
    refine BitVec.eq_of_getLsbD_eq fun i hi => ?_
    interval_cases i <;> simp_all [usitc]
  rw [setUsicr, hv]

/-- A field of two bits, bit by bit. -/
theorem extractLsb'_two_beq (x : Byte) (k : Nat) (y : BitVec 2) :
    (x.extractLsb' k 2 == y) = (x.getLsbD (k + 1) == y.getLsbD 1 && x.getLsbD k == y.getLsbD 0) := by
  rw [Bool.eq_iff_iff, Bool.and_eq_true, beq_iff_eq, beq_iff_eq, beq_iff_eq]
  constructor
  · rintro rfl
    exact ⟨by simp, by simp⟩
  · rintro ⟨h1, h0⟩
    refine BitVec.eq_of_getLsbD_eq fun i hi => ?_
    interval_cases i
    · simp [h0]
    · simp [h1]

theorem usiCountsStrobes_setUsicr (v : Byte) (u : UsiRegs) :
    usiCountsStrobes (setUsicr v u) = (v.getLsbD 3 && !v.getLsbD 2 && v.getLsbD 1) := by
  simp [usiCountsStrobes, usiClockSource, usiClk, setUsicr, extractLsb'_two_beq, usitc]

theorem usiOverflow_eq (u : UsiRegs) : usiOverflow u = u.usisr.getLsbD 6 := by
  rw [usiOverflow, Bool.eq_iff_iff, beq_iff_eq]
  constructor
  · intro h
    simpa [usioif] using congrArg (fun y : Byte => y.getLsbD 6) h
  · intro h
    refine BitVec.eq_of_getLsbD_eq fun i hi => ?_
    interval_cases i <;> simp_all [usioif]

theorem masterScl_eq (u : UsiRegs) :
    masterScl u = (u.sclHigh && !(u.usicr.getLsbD 5 && u.usicr.getLsbD 4 && u.usisr.getLsbD 6)) := by
  simp [masterScl, usiWireMode, usiOverflow_eq, extractLsb'_two_beq]

/-! ### The edge counter -/

theorem toNat_and_counter (x : Byte) : (x &&& 0x0F#8).toNat = x.toNat % 16 := by
  rw [BitVec.toNat_and]
  exact Nat.and_two_pow_sub_one_eq_mod _ 4

/-- The counter is the low four bits. -/
theorem counter_congr {x y : Byte} (h : x &&& 0x0F#8 = y &&& 0x0F#8) : x.toNat % 16 = y.toNat % 16 := by
  rw [← toNat_and_counter, h, toNat_and_counter]

theorem counter_beq (x : Byte) : (x &&& 0x0F#8 == 0x0F#8) = decide (x.toNat % 16 = 15) := by
  rw [Bool.eq_iff_iff, beq_iff_eq, decide_eq_true_iff, ← BitVec.toNat_inj, toNat_and_counter]
  rfl

theorem usiCountEdge_last {u : UsiRegs} (h : u.usisr.toNat % 16 = 15) :
    (usiCountEdge u).usisr = (u.usisr &&& 0xF0#8) ||| usioif := by
  rw [usiCountEdge, counter_beq, if_pos (by simpa using h)]

theorem usiCountEdge_next {u : UsiRegs} (h : u.usisr.toNat % 16 ≠ 15) : (usiCountEdge u).usisr = u.usisr + 1#8 := by
  rw [usiCountEdge, counter_beq, if_neg (by simpa using h)]

/-- The counter goes up by one; its overflow sets the flag, and the other flags stay without it. -/
theorem usiCountEdge_counter (u : UsiRegs) :
    (usiCountEdge u).usisr.toNat % 16 = (u.usisr.toNat + 1) % 16 ∧
      (u.usisr.toNat % 16 = 15 → (usiCountEdge u).usisr.getLsbD 6 = true) ∧
      (u.usisr.toNat % 16 ≠ 15 → (usiCountEdge u).usisr.toNat / 16 = u.usisr.toNat / 16) := by
  by_cases h : u.usisr.toNat % 16 = 15
  · rw [usiCountEdge_last h]
    refine ⟨?_, fun _ => by simp [usioif], fun hn => absurd h hn⟩
    have hx : (u.usisr &&& 0xF0#8 ||| usioif).toNat % 16 = (0#8).toNat % 16 := by
      refine counter_congr (BitVec.eq_of_getLsbD_eq fun i hi => ?_)
      interval_cases i <;> simp [usioif]
    rw [hx, Nat.add_mod, h]
    rfl
  · rw [usiCountEdge_next h]
    have hlt := u.usisr.isLt
    have hadd : (u.usisr + 1#8).toNat = u.usisr.toNat + 1 := by
      rw [BitVec.toNat_add]
      exact Nat.mod_eq_of_lt (by simp; omega)
    rw [hadd]
    exact ⟨rfl, fun hl => absurd hl h, fun _ => by omega⟩

/-! ### A write of `USICR` -/

/-- A strobe toggles the clock pin. -/
theorem usiStrobe_sclHigh (line : Bool) (u : UsiRegs) : (usiStrobe line u).sclHigh = !u.sclHigh := by
  unfold usiStrobe usiCountEdge
  split
  · split <;> rfl
  · rfl

theorem writeUsicr_strobe (line : Bool) {v : Byte} (h : v.getLsbD 0 = true) (u : UsiRegs) :
    writeUsicr line v u = usiStrobe line (setUsicr v u) := by
  rw [writeUsicr, and_usitc_beq, if_pos h]

theorem writeUsicr_store (line : Bool) {v : Byte} (h : v.getLsbD 0 = false) (u : UsiRegs) :
    writeUsicr line v u = { u with usicr := v } := by
  rw [writeUsicr, and_usitc_beq, if_neg (by rw [h]; exact Bool.false_ne_true), setUsicr_eq h]

/-- The counter's next value is its own. -/
theorem usiCountEdge_usisr_congr {u w : UsiRegs} (h : w.usisr = u.usisr) :
    (usiCountEdge w).usisr = (usiCountEdge u).usisr := by
  unfold usiCountEdge
  rw [h]
  split <;> rfl

/-- A strobe moves the counter with the software clock source and `USICLK` only. -/
theorem usiStrobe_usisr (line : Bool) (u : UsiRegs) :
    (usiStrobe line u).usisr = if usiCountsStrobes u then (usiCountEdge u).usisr else u.usisr := by
  unfold usiStrobe
  split
  · exact usiCountEdge_usisr_congr rfl
  · rfl

theorem writeUsicr_usisr (line : Bool) (v : Byte) (u : UsiRegs) :
    (writeUsicr line v u).usisr =
      if v.getLsbD 0 && (v.getLsbD 3 && !v.getLsbD 2 && v.getLsbD 1) then (usiCountEdge u).usisr else u.usisr := by
  cases h : v.getLsbD 0 with
  | false => rw [writeUsicr_store line h, Bool.false_and, if_neg Bool.false_ne_true]
  | true =>
    have hu : (usiCountEdge (setUsicr v u)).usisr = (usiCountEdge u).usisr := usiCountEdge_usisr_congr rfl
    rw [writeUsicr_strobe line h, usiStrobe_usisr, usiCountsStrobes_setUsicr, Bool.true_and, hu]
    rfl

/-- Settles O60: the strobe bit decides, and with it the clock source and `USICLK`. -/
theorem usicrWriteByFields : Obligations.UsicrWriteByFields := by
  refine ⟨fun line v u => ⟨writeUsicr_usicr line v u, fun h => writeUsicr_store line h u, fun h => ?_, fun h hc => ?_,
    fun hc => ?_⟩, fun u => ⟨fun h5 h4 h6 => ?_, fun h => ?_⟩⟩
  · rw [writeUsicr_strobe line h, usiStrobe_sclHigh]
    rfl
  · obtain ⟨h3, h2, h1⟩ := hc
    rw [writeUsicr_usisr, h, h3, h2, h1]
    exact usiCountEdge_counter u
  · rw [writeUsicr_usisr, if_neg]
    simpa [and_assoc] using fun _ => hc
  · simp [masterScl_eq, h5, h4, h6]
  · have hf : (u.usicr.getLsbD 5 && u.usicr.getLsbD 4 && u.usisr.getLsbD 6) = false := by
      rw [Bool.eq_false_iff]
      simpa [and_assoc] using h
    rw [masterScl_eq, hf, Bool.not_false, Bool.and_true]

end Sys2Proof.Machine
end

section
/-! The USI's transfer loop (R125): each clock shifts the line's level into the data register and counts two edges, so eight
clocks move a byte, and one clock, from the counter's preset 14, an acknowledge bit. -/

namespace Sys2Proof.Machine

/-! ### A strobe in the loop's mode -/

/-- A level shifted into the data register. -/
def shiftIn (level : Bool) (x : Byte) : Byte := (x <<< 1) ||| (BitVec.ofBool level).zeroExtend 8

@[simp] theorem shiftIn_getLsbD_zero (level : Bool) (x : Byte) : (shiftIn level x).getLsbD 0 = level := by
  cases level <;> simp [shiftIn]

theorem shiftIn_getLsbD_succ (level : Bool) (x : Byte) {i : Nat} (hi : i < 7) :
    (shiftIn level x).getLsbD (i + 1) = x.getLsbD i := by
  interval_cases i <;> cases level <;> simp [shiftIn]

theorem writeUsicr_twoWireSw (line : Bool) {u : UsiRegs} (hu : u.usicr = twoWireSw) :
    writeUsicr line (twoWireSw ||| usitc) u = usiCountEdge (toggleScl line u) := by
  have hs : setUsicr (twoWireSw ||| usitc) u = u := by
    rw [setUsicr, show (twoWireSw ||| usitc) &&& ~~~usitc = u.usicr by rw [hu]; decide]
  rw [writeUsicr_strobe line (by decide), hs, usiStrobe, if_pos]
  rw [usiCountsStrobes, usiClockSource, usiClk, hu]
  decide

theorem toggleScl_usidr (line : Bool) {u : UsiRegs} (hu : u.usicr = twoWireSw) :
    (toggleScl line u).usidr = if u.sclHigh then shiftIn line u.usidr else u.usidr := by
  have hw : usiTwoWire u = true := by
    rw [usiTwoWire, usiWireMode, hu]
    decide
  have hscl : masterScl u = u.sclHigh := by
    rw [masterScl_eq, hu]
    simp [twoWireSw]
  rw [toggleScl, hw, hscl, Bool.true_and, shiftIn]

/-- Counting an edge touches neither the data register nor the pins. -/
theorem usiCountEdge_rest (u : UsiRegs) : (usiCountEdge u).usidr = u.usidr ∧ (usiCountEdge u).sclHigh = u.sclHigh ∧
    (usiCountEdge u).sdaOut = u.sdaOut ∧ (usiCountEdge u).sdaHigh = u.sdaHigh := by
  unfold usiCountEdge
  split <;> exact ⟨rfl, rfl, rfl, rfl⟩

/-! ### One clock -/

/-- One clock is two strobes; the data register shifts in the one that lets SCL fall. -/
theorem usiClock_eq (target : Bool) {u : UsiRegs} (hu : u.usicr = twoWireSw) :
    usiClock target u = usiCountEdge (toggleScl (sdaLine target u)
      (usiCountEdge (toggleScl (sdaLine target u) (usiCollision (sdaLine target u) u)))) := by
  unfold usiClock
  dsimp only
  rw [writeUsicr_twoWireSw _ (u := usiCollision _ u) hu, writeUsicr_twoWireSw _ (by simpa [usiCollision] using hu)]

theorem usiClock_usidr (target : Bool) {u : UsiRegs} (hu : u.usicr = twoWireSw) :
    (usiClock target u).usidr = shiftIn (sdaLine target u) u.usidr := by
  rw [usiClock_eq target hu]
  generalize sdaLine target u = line
  obtain ⟨hd, hs, -, -⟩ := usiCountEdge_rest (toggleScl line (usiCollision line u))
  rw [(usiCountEdge_rest _).1, toggleScl_usidr _ (by simpa [usiCollision] using hu), hd, hs, toggleScl_usidr _ (by exact hu)]
  cases hc : u.sclHigh <;> simp [usiCollision, toggleScl, hc]

theorem usiClock_pins (target : Bool) {u : UsiRegs} (hu : u.usicr = twoWireSw) :
    (usiClock target u).sdaOut = u.sdaOut ∧ (usiClock target u).sdaHigh = u.sdaHigh := by
  rw [usiClock_eq target hu]
  generalize sdaLine target u = line
  obtain ⟨-, -, ho, hh⟩ := usiCountEdge_rest (toggleScl line (usiCollision line u))
  obtain ⟨-, -, ho', hh'⟩ := usiCountEdge_rest (toggleScl line (usiCountEdge (toggleScl line (usiCollision line u))))
  exact ⟨ho'.trans ho, hh'.trans hh⟩

/-- `USIDC` is apart from the counter and its flag. -/
theorem usiCollision_counter (line : Bool) (u : UsiRegs) : (usiCollision line u).usisr.toNat % 16 = u.usisr.toNat % 16 ∧
    (usiCollision line u).usisr.getLsbD 6 = u.usisr.getLsbD 6 := by
  unfold usiCollision
  dsimp only
  split
  · refine ⟨counter_congr (BitVec.eq_of_getLsbD_eq fun i hi => ?_), by simp [usidc]⟩
    interval_cases i <;> simp [usidc]
  · refine ⟨counter_congr (BitVec.eq_of_getLsbD_eq fun i hi => ?_), by simp [usidc]⟩
    interval_cases i <;> simp [usidc]

/-- The flag is above the counter. -/
theorem flag_of_div {x y : Byte} (h : x.toNat / 16 = y.toNat / 16) : x.getLsbD 6 = y.getLsbD 6 := by
  have ht : ∀ z : Byte, z.getLsbD 6 = (z.toNat / 2 ^ 4).testBit 2 := fun z => by
    rw [Nat.testBit_div_two_pow]
    rfl
  rw [ht, ht]
  exact congrArg (fun n => n.testBit 2) h

theorem usiClock_usisr (target : Bool) {u : UsiRegs} (hu : u.usicr = twoWireSw) :
    (usiClock target u).usisr = (usiCountEdge (usiCountEdge (usiCollision (sdaLine target u) u))).usisr := by
  rw [usiClock_eq target hu]
  exact usiCountEdge_usisr_congr (usiCountEdge_usisr_congr rfl)

/-- A clock counts two edges, the sixteenth of which sets the flag. -/
theorem usiClock_counter (target : Bool) {u : UsiRegs} (hu : u.usicr = twoWireSw) :
    (u.usisr.toNat % 16 < 14 → (usiClock target u).usisr.toNat % 16 = u.usisr.toNat % 16 + 2 ∧
      usiOverflow (usiClock target u) = usiOverflow u) ∧
    (u.usisr.toNat % 16 = 14 → usiOverflow (usiClock target u) = true) := by
  obtain ⟨hc, hf⟩ := usiCollision_counter (sdaLine target u) u
  obtain ⟨h1, -, h2⟩ := usiCountEdge_counter (usiCollision (sdaLine target u) u)
  obtain ⟨h3, h4, h5⟩ := usiCountEdge_counter (usiCountEdge (usiCollision (sdaLine target u) u))
  rw [usiOverflow_eq, usiOverflow_eq, usiClock_usisr target hu]
  refine ⟨fun h => ⟨by omega, ?_⟩, fun h => h4 (by omega)⟩
  rw [flag_of_div ((h5 (by omega)).trans (h2 (by omega))), hf]

/-! ### The loop -/

/-- The level of SDA in a clock (R107): low where the responder pulls it low, or the master's latch or the top bit of its data
register does while it drives the line. -/
def sdaLevel (driven latch : Bool) (x : Byte) (target : Bool) : Bool := (!driven || (latch && x.getLsbD 7)) && target

/-- The data register after a sequence of clocks. -/
def shiftAll (driven latch : Bool) : List Bool → Byte → Byte
  | [], x => x
  | t :: ts, x => shiftAll driven latch ts (shiftIn (sdaLevel driven latch x t) x)

/-- The levels of SDA in them. -/
def sdaLevels (driven latch : Bool) : List Bool → Byte → List Bool
  | [], _ => []
  | t :: ts, x => sdaLevel driven latch x t :: sdaLevels driven latch ts (shiftIn (sdaLevel driven latch x t) x)

/-- The loop is under way: its mode set, and `c` edges counted without an overflow. -/
structure Shifting (c : Nat) (driven latch : Bool) (x : Byte) (u : UsiRegs) : Prop where
  mode : u.usicr = twoWireSw
  counter : u.usisr.toNat % 16 = c
  flag : usiOverflow u = false
  data : u.usidr = x
  out : u.sdaOut = driven
  latch : u.sdaHigh = latch

section
variable {c : Nat} {driven latch : Bool} {x : Byte} {u : UsiRegs}

theorem Shifting.sdaLine (h : Shifting c driven latch x u) (target : Bool) :
    sdaLine target u = sdaLevel driven latch x target := by
  have hw : usiTwoWire u = true := by
    rw [usiTwoWire, usiWireMode, h.mode]
    decide
  rw [Machine.sdaLine, masterSda, sdaLevel, hw, h.out, h.latch, h.data, Bool.not_true, Bool.false_or]

theorem Shifting.usidr (h : Shifting c driven latch x u) (target : Bool) :
    (usiClock target u).usidr = shiftIn (sdaLevel driven latch x target) x := by
  rw [usiClock_usidr target h.mode, h.sdaLine, h.data]

theorem Shifting.clock (h : Shifting c driven latch x u) (hc : c < 14) (target : Bool) :
    Shifting (c + 2) driven latch (shiftIn (sdaLevel driven latch x target) x) (usiClock target u) := by
  obtain ⟨hn, hf⟩ := (usiClock_counter target h.mode).1 (h.counter ▸ hc)
  obtain ⟨ho, hl⟩ := usiClock_pins target h.mode
  exact ⟨usiClock_usicr target u, by rw [hn, h.counter], hf.trans h.flag, h.usidr target, ho.trans h.out, hl.trans h.latch⟩

/-- The loop runs over clocks that come to the sixteenth edge and no further. -/
theorem Shifting.loop {ts : List Bool} (h : Shifting c driven latch x u) (hne : ts ≠ []) (hlen : c + 2 * ts.length = 16) :
    usiShiftLine ts u = sdaLevels driven latch ts x ∧ (usiShift ts u).usidr = shiftAll driven latch ts x ∧
      usiOverflow (usiShift ts u) = true := by
  induction ts generalizing c x u with
  | nil => exact absurd rfl hne
  | cons t ts ih =>
    rw [usiShiftLine, usiShift, sdaLevels, shiftAll, h.sdaLine]
    simp only [List.length_cons] at hlen
    cases ts with
    | nil =>
      have ho : usiOverflow (usiClock t u) = true := (usiClock_counter t h.mode).2 (by rw [h.counter]; simp at hlen; omega)
      rw [if_pos ho, if_pos ho]
      exact ⟨rfl, h.usidr t, ho⟩
    | cons t' ts =>
      simp only [List.length_cons] at hlen
      have hnext := h.clock (by omega) t
      have ho : ¬usiOverflow (usiClock t u) = true := by simp [hnext.flag]
      obtain ⟨hl, hd, hf⟩ := ih hnext (by simp) (by simp only [List.length_cons]; omega)
      rw [if_neg ho, if_neg ho, hl]
      exact ⟨rfl, hd, hf⟩

end

/-- A transfer begins with its counter preset and no overflow. -/
theorem usiTransferBegin_shifting (preset : Byte) (hp : preset.toNat < 16) (u : UsiRegs) :
    Shifting preset.toNat u.sdaOut u.sdaHigh u.usidr (usiTransferBegin preset u) := by
  refine ⟨?_, ?_, ?_, rfl, rfl, rfl⟩
  · show twoWireSw &&& ~~~usitc = twoWireSw
    decide
  · rw [← Nat.mod_eq_of_lt hp]
    refine counter_congr (BitVec.eq_of_getLsbD_eq fun i hi => ?_)
    interval_cases i <;> simp [usiTransferBegin, writeUsisr, setUsicr, usidc]
  · rw [usiOverflow_eq]
    simp [usiTransferBegin, writeUsisr, setUsicr, usidc]

/-! ### A byte and a bit -/

/-- What SDA reads while the master leaves it to the responder. -/
theorem sdaLevel_released (latch : Bool) (x : Byte) (target : Bool) : sdaLevel false latch x target = target := by
  rw [sdaLevel, Bool.not_false, Bool.true_or, Bool.true_and]

theorem shiftAll_byte (latch : Bool) (x b : Byte) : shiftAll false latch (msbFirst b) x = b := by
  simp only [msbFirst, shiftAll, sdaLevel_released]
  refine BitVec.eq_of_getLsbD_eq fun i hi => ?_
  interval_cases i <;> simp only [shiftIn_getLsbD_zero, shiftIn_getLsbD_succ, Nat.reduceLT]

theorem sdaLevels_released (latch : Bool) (ts : List Bool) (x : Byte) : sdaLevels false latch ts x = ts := by
  induction ts generalizing x with
  | nil => rfl
  | cons t ts ih => rw [sdaLevels, ih, sdaLevel_released]

theorem sdaLevels_byte (b : Byte) : sdaLevels true true released8 b = msbFirst b := by
  simp only [released8, sdaLevels, sdaLevel, msbFirst, Bool.not_true, Bool.false_or, Bool.true_and, Bool.and_true,
    shiftIn_getLsbD_succ, Nat.reduceLT]

theorem usiSendIssue_shifting (b : Byte) (u : UsiRegs) : Shifting 0 true u.sdaHigh b (usiSendIssue b u) :=
  usiTransferBegin_shifting 0#8 (by decide) { u with usidr := b, sdaOut := true }

theorem usiReadIssue_shifting (u : UsiRegs) : Shifting 0 false u.sdaHigh u.usidr (usiReadIssue u) :=
  usiTransferBegin_shifting 0#8 (by decide) { u with sdaOut := false }

/-- The ninth clock reads the responder's bit. -/
theorem usiTransferEnd_bit (u : UsiRegs) (k : Bool) :
    (usiTransferEnd [k] (usiTransferBegin 14#8 { u with sdaOut := false })).1.getLsbD 0 = k := by
  have h : Shifting 14 false u.sdaHigh u.usidr (usiTransferBegin 14#8 { u with sdaOut := false }) :=
    usiTransferBegin_shifting 14#8 (by decide) { u with sdaOut := false }
  rw [usiTransferEnd, (h.loop (List.cons_ne_nil k []) rfl).2.1, shiftAll, shiftAll, sdaLevel_released, shiftIn_getLsbD_zero]

/-- Settles O56: a send and a read are eight clocks from the counter's preset 0, and the acknowledge is one from 14. -/
theorem usiTransferMovesByte : Obligations.UsiTransferMovesByte := by
  intro b k ack u
  obtain ⟨hsend, -, hover⟩ := (usiSendIssue_shifting b u).loop (ts := released8) (List.cons_ne_nil _ _) rfl
  obtain ⟨hread, hdata, -⟩ := (usiReadIssue_shifting u).loop (ts := msbFirst b) (List.cons_ne_nil _ _) rfl
  refine ⟨fun hh => ?_, hover, ?_, ?_, ?_⟩
  · rw [hsend, hh, sdaLevels_byte]
  · exact usiTransferEnd_bit _ k
  · rw [hread, sdaLevels_released]
  · rw [usiReadResult, usiTransferEnd, hdata, shiftAll_byte]

end Sys2Proof.Machine
end
